-- ==== Sys2Proof/Word.lean ====
section
/-! DEFINITION. The machine word and its plainest arithmetic (R9, R10 of spec/00_scope.md). -/
namespace Sys2Proof

/-- A 64-bit word: a scalar register's value, an address, a control register. -/
abbrev Word := BitVec 64

/-- One byte of memory. -/
abbrev Byte := BitVec 8

/-- One instruction word (R52). -/
abbrev Insn := BitVec 32

end Sys2Proof
end

