-- ==== Sys2Proof/Syntax.lean ====
section
/-! DEFINITION. The instructions and events of spec/opcode_table.json, one constructor a row.

A row with a word has the fields the table gives it, as bit vectors of the field's width: a register
field is a `BitVec 5` (or 3 for a predicate or mask), an even pair sN is N / 2 as a `BitVec 4`, an
offset or immediate is the field's pattern.  A row without a word is an event of the device; its
operands name the unit it falls on and what the outside supplies. -/
namespace Sys2Proof

abbrev Reg := BitVec 5
abbrev PredReg := BitVec 3
abbrev MaskField := BitVec 3
abbrev TileNo := BitVec 5
abbrev RecNo := BitVec 4
abbrev PairNo := BitVec 4
abbrev Os := BitVec 5
abbrev Rm := BitVec 3

/-- Names one block: its LAUNCHID and its linear index L (R31). -/
structure BlockKey where
  lid : Nat
  lin : Nat
  deriving DecidableEq, Repr

/-- The core whose estimator charges, and the launch that it charges (R374). -/
structure Estimate where
  core : Nat
  lid : Nat
  deriving DecidableEq, Repr

/-- A CXL request of the device, a write or a read of a line (R388). -/
structure CxlRequest where
  write : Bool
  line : Nat
  deriving DecidableEq, Repr

/-- A firmware image as the boot ROM sees it (R393): the 184 header bytes and the body. -/
structure Image where
  header : List Byte
  body : List Byte
  deriving DecidableEq, Repr

/-- The first-stage image, and those of the stages after it, which each stage checks (R393). -/
structure ImageChain where
  first : Image
  rest : List Image
  deriving DecidableEq, Repr

/-- What Praline is asked to do (R395, R391, R392). -/
inductive Management where
  | writeScrub (v : Word)
  | highAltitude
  | readErrlog
  | readCounter (n : Nat)
  | setCap (core lanes : Nat)
  | readReason
  deriving DecidableEq, Repr

inductive Instr where
  -- Scalar ALU, major 0x01 (R64, R122, R123)
  | add (d a b : Reg)
  | sub (d a b : Reg)
  | mul (d a b : Reg)
  | mulh (d a b : Reg)
  | mulhu (d a b : Reg)
  | div (d a b : Reg)
  | divu (d a b : Reg)
  | rem (d a b : Reg)
  | remu (d a b : Reg)
  | and (d a b : Reg)
  | or (d a b : Reg)
  | xor (d a b : Reg)
  | andn (d a b : Reg)
  | shl (d a b : Reg)
  | shr (d a b : Reg)
  | sra (d a b : Reg)
  | rot (d a b : Reg)
  | min (d a b : Reg)
  | max (d a b : Reg)
  | minu (d a b : Reg)
  | maxu (d a b : Reg)
  | clz (d a : Reg)
  | ctz (d a : Reg)
  | popc (d a : Reg)
  | bfx (d a b : Reg) (l : BitVec 6)
  | bfi (d a b : Reg) (l : BitVec 6)
  | sel (d a b : Reg) (p : PredReg)
  -- Immediates and addresses, majors 0x02 to 0x09 (R124 to R126)
  | addi (d a : Reg) (i : BitVec 16)
  | andi (d a : Reg) (i : BitVec 16)
  | ori (d a : Reg) (i : BitVec 16)
  | xori (d a : Reg) (i : BitVec 16)
  | shli (d a : Reg) (c : BitVec 6)
  | shri (d a : Reg) (c : BitVec 6)
  | srai (d a : Reg) (c : BitVec 6)
  | roti (d a : Reg) (c : BitVec 6)
  | lui (d : Reg) (i : BitVec 21)
  | auipc (d : Reg) (i : BitVec 21)
  | addx (d a b : Reg) (s : BitVec 3)
  -- Compares and predicates, majors 0x0A to 0x0C (R127, R128)
  | cmp (d : PredReg) (a b : Reg) (c : BitVec 4)
  | cmpi (d : PredReg) (a : Reg) (c : BitVec 3) (i : BitVec 13)
  | pand (d a b : PredReg)
  | por (d a b : PredReg)
  | pxor (d a b : PredReg)
  | pnot (d a : PredReg)
  | pmov (d a : PredReg)
  -- Scalar loads, stores and AMO, majors 0x0D to 0x0F (R66, R129, R272, R279)
  | ldb (d a b : Reg) (h : BitVec 1) (o : Os)
  | ldh (d a b : Reg) (h : BitVec 1) (o : Os)
  | ldw (d a b : Reg) (h : BitVec 1) (o : Os)
  | ldd (d a b : Reg) (h : BitVec 1) (o : Os)
  | ldbz (d a b : Reg) (h : BitVec 1) (o : Os)
  | ldhz (d a b : Reg) (h : BitVec 1) (o : Os)
  | ldwz (d a b : Reg) (h : BitVec 1) (o : Os)
  | stb (d a b : Reg) (h : BitVec 1) (o : Os)
  | sth (d a b : Reg) (h : BitVec 1) (o : Os)
  | stw (d a b : Reg) (h : BitVec 1) (o : Os)
  | std (d a b : Reg) (h : BitVec 1) (o : Os)
  | amo (d a b : Reg) (p : BitVec 4) (w : BitVec 2) (o : Os)
  -- Control transfer, majors 0x10 to 0x15 (R67, R131, R133)
  | b (n : BitVec 1) (p : PredReg) (o : BitVec 22)
  | bz (a : Reg) (o : BitVec 20)
  | bnz (a : Reg) (o : BitVec 20)
  | j (o : BitVec 21)
  | jal (d : Reg) (o : BitVec 21)
  | jr (d a : Reg)
  | loop (d : Reg) (o : BitVec 16)
  -- CSR and system, majors 0x16 and 0x17 (R68, R207, R208)
  | csrr (d : Reg) (c : BitVec 12)
  | csrw (d a : Reg) (c : BitVec 12)
  | csrs (d a : Reg) (c : BitVec 12)
  | csrc (d a : Reg) (c : BitVec 12)
  | trap (v : BitVec 7)
  | wait (a : Reg)
  | poison (d : TileNo) (a : Reg)
  | marble (a : Reg)
  -- Shapes, major 0x18 (R145, R146)
  | shape (d a b : Reg) (h : RecNo)
  | shapeq (d a b : Reg)
  | tbind (d : TileNo) (h : RecNo)
  | tfree (d : TileNo)
  -- Tile arithmetic, major 0x19 (R153)
  | tadd (d a b : TileNo) (m : MaskField) (r : Rm)
  | tsub (d a b : TileNo) (m : MaskField) (r : Rm)
  | tmul (d a b : TileNo) (m : MaskField) (r : Rm)
  | tfma (d a b : TileNo) (m : MaskField) (r : Rm)
  | tfms (d a b : TileNo) (m : MaskField) (r : Rm)
  | tmin (d a b : TileNo) (m : MaskField) (r : Rm)
  | tmax (d a b : TileNo) (m : MaskField) (r : Rm)
  | tand (d a b : TileNo) (m : MaskField) (r : Rm)
  | tor (d a b : TileNo) (m : MaskField) (r : Rm)
  | txor (d a b : TileNo) (m : MaskField) (r : Rm)
  | tshl (d a b : TileNo) (m : MaskField) (r : Rm)
  | tshr (d a b : TileNo) (m : MaskField) (r : Rm)
  | tcmp (d : MaskField) (a b : TileNo) (m : MaskField) (c : BitVec 3)
  | tsel (d a b : TileNo) (s : MaskField) (r : Rm)
  -- Unary, major 0x1A (R154)
  | tabs (d a : TileNo) (m : MaskField) (r : Rm)
  | tneg (d a : TileNo) (m : MaskField) (r : Rm)
  | trcp (d a : TileNo) (m : MaskField) (r : Rm)
  | trsq (d a : TileNo) (m : MaskField) (r : Rm)
  | texp (d a : TileNo) (m : MaskField) (r : Rm)
  | tlog (d a : TileNo) (m : MaskField) (r : Rm)
  | ttanh (d a : TileNo) (m : MaskField) (r : Rm)
  -- Conversion, major 0x1B (R155)
  | tcvt (d a : TileNo) (b : Reg) (m : MaskField) (s : BitVec 1) (r : Rm)
  | tqnt (d a : TileNo) (b : Reg) (m : MaskField) (s : BitVec 1) (r : Rm)
  | tdq (d a : TileNo) (b : Reg) (m : MaskField) (s : BitVec 1) (r : Rm)
  -- Movement, major 0x1C (R156)
  | tmov (d a : TileNo) (m : MaskField)
  | tbcast (d : TileNo) (a : Reg) (m : MaskField)
  | tiota (d : TileNo) (a b : Reg) (m : MaskField)
  | ttrans (d a : TileNo) (m : MaskField)
  | tslide (d a : TileNo) (b : Reg) (m : MaskField)
  | tperm (d a b : TileNo) (m : MaskField)
  -- Reduction, scan, compaction, major 0x1D (R157)
  | tredr (d a : TileNo) (m : MaskField) (x : BitVec 3)
  | tredc (d a : TileNo) (m : MaskField) (x : BitVec 3)
  | tscan (d a : TileNo) (m : MaskField) (x : BitVec 3)
  | tnz (d a : TileNo) (m : MaskField)
  | tcomp (d a : TileNo) (m : MaskField)
  | texpd (d a : TileNo) (m : MaskField)
  | tgets (d : Reg) (a : TileNo) (b : Reg)
  | tclass (d : MaskField) (a : TileNo) (m : MaskField) (c : BitVec 4)
  | tpmask (d : MaskField) (a : TileNo) (m : MaskField)
  -- Masks, major 0x1E (R159)
  | mand (d a b : MaskField)
  | mor (d a b : MaskField)
  | mxor (d a b : MaskField)
  | mnot (d a : MaskField)
  | mpopc (d : Reg) (a : MaskField)
  | mfirst (d : Reg) (a : MaskField)
  | msets (d : MaskField) (a : Reg)
  | mpsum (d : TileNo) (a : MaskField)
  -- Lane-function calls, major 0x1F (R70, R161)
  | map (d a b : TileNo) (m : MaskField) (l : BitVec 5)
  | map3 (d a b : TileNo) (m : MaskField) (l : BitVec 5)
  | reduce (d a : TileNo) (m : MaskField) (l : BitVec 5)
  | scan (d a : TileNo) (m : MaskField) (l : BitVec 5)
  -- Tile loads, majors 0x20 to 0x24 (R71, R180)
  | tld (d : TileNo) (a : Reg) (m : MaskField) (h : BitVec 1) (o : Os)
  | tlds (d : TileNo) (a b : Reg) (m : MaskField) (h : BitVec 1) (o : Os)
  | tldb (d : TileNo) (a : Reg) (m : MaskField) (h : BitVec 1) (o : Os)
  | tldg (d : TileNo) (a : Reg) (b : TileNo) (m : MaskField) (h : BitVec 1) (o : Os)
  | tldw (d : TileNo) (a b : Reg) (m : MaskField) (h : BitVec 1) (o : Os)
  | tldc (d : TileNo) (a b : Reg) (m : MaskField) (h : BitVec 1) (o : Os)
  | tldsh (d : TileNo) (a : Reg) (m : MaskField)
  | tldm (d : MaskField) (a : Reg)
  -- Tile stores, majors 0x25 to 0x28 (R71, R273, R277, R280)
  | tst (d : TileNo) (a : Reg) (m : MaskField) (h : BitVec 1) (o : Os)
  | tsts (d : TileNo) (a b : Reg) (m : MaskField) (h : BitVec 1) (o : Os)
  | tsct (d : TileNo) (a : Reg) (b : TileNo) (m : MaskField) (h : BitVec 1) (o : Os)
  | tscta (d : TileNo) (a : Reg) (b : TileNo) (m : MaskField) (h : BitVec 1) (o : Os)
  | tatom (d : TileNo) (a : Reg) (b : TileNo) (m : MaskField) (p : BitVec 3) (o : Os)
  | tstsh (d : TileNo) (a : Reg) (m : MaskField)
  -- Matrix, majors 0x29 to 0x2C (R72, R253 to R262)
  | mma (d : Reg) (a b : TileNo) (m : MaskField) (t : BitVec 4) (x : BitVec 1)
  | mmas (d : Reg) (a b : TileNo) (m : MaskField) (t : BitVec 4) (x : BitVec 1)
  | mmav (r : Reg) (b : TileNo) (p : PairNo) (s x : BitVec 1) (t : BitVec 4)
  | azero (d : Reg)
  | amov (d : TileNo) (a : Reg) (m : MaskField) (r : Rm) (s : BitVec 1)
  | tamov (d : Reg) (a : TileNo) (m : MaskField)
  | ald (d a b : Reg)
  | ast (d a b : Reg)
  -- Copy engines and cache control, majors 0x2D to 0x2F (R73, R282 to R288)
  | copy (a b : Reg) (c : PairNo) (s : BitVec 3)
  | copyz (a : Reg) (c : PairNo) (s : BitVec 3)
  | copyg (a b : Reg) (c : PairNo) (s : BitVec 3)
  | copyx (a b : Reg) (c : PairNo) (s : BitVec 3)
  | cpin (a b : Reg)
  | cunpin (a b : Reg)
  | cevict (a b : Reg)
  | cpref (a b : Reg)
  -- Ordering, major 0x30 (R296, R297)
  | fence (o : Os)
  -- Queues, majors 0x31 to 0x34 (R73, R329, R336 to R342)
  | launch (d a : Reg)
  | send (d a : TileNo) (b : Reg)
  | recv (d : TileNo)
  | recvt (d : TileNo) (b : Reg) (p : PredReg)
  | evwait (d a b : Reg) (o : Os)
  | qfill (a b : Reg) (c : PairNo) (s : BitVec 3)
  | qpop (d : TileNo) (a : Reg)
  -- Graphs, translation, counters, majors 0x35 to 0x37 (R362, R355, R377)
  | gnode (a b : Reg)
  | glink (a b : Reg)
  | gsubmit (a b : Reg) (s : BitVec 3)
  | tlbinvPage (a b : Reg)
  | tlbinvAsid (b : Reg)
  | cntr (d : Reg) (n : BitVec 12)
  | cntw (a : Reg) (n : BitVec 12)
  -- Events of a block's life (R33, R38, R208, R221, R222)
  | blockPromotion (k : BlockKey)
  | blockWake (k : BlockKey)
  | waitExpiry (k : BlockKey)
  | recvtTimeout (k : BlockKey)
  | noticeEntry (k : BlockKey)
  | noticeWindowExpiry (k : BlockKey)
  | hardPreemption (k : BlockKey)
  | saveComplete (k : BlockKey)
  | launchCompletion (lid : Nat)
  -- Events of the queues (R322, R323, R326, R334, R345, R346)
  | producerCountWrite (q : Nat)
  | queueDescriptorWrite (e : Nat)
  | launchRecord (q : Nat)
  | preemptRecord (q : Nat)
  | restoreRecord (q : Nat)
  | abortRecord (q : Nat)
  | faultAnswer (f : Nat)
  | loadReissue (k : BlockKey)
  | loadArrival (k : BlockKey) (t : TileNo) (g : Nat)
  | writePerformed (k : BlockKey) (slice : Nat)
  | transferArrival (k : BlockKey)
  | mmavStopPoint (k : BlockKey)
  -- Events of engines and graphs (R282, R286, R341, R364, R370)
  | engineCompletion (op : Nat)
  | engineAbandon (op : Nat)
  | copyxSwitch (op : Nat)
  | fillEntry (k : BlockKey) (q : BitVec 2)
  | nodeStart (g node : Nat)
  | nodeDone (g node : Nat)
  | nodeAbandon (g node : Nat)
  | graphCompletion (g : Nat)
  -- Energy, heat, errors, scrub (R374, R391, R215 to R218, R237, R240, R242, R247)
  | energyCharge (of_ : Estimate) (charge : Nat)
  | thermalCapChange (core celsius : Nat)
  | softErrorReplay (k : BlockKey) (lasting : Bool) (laneGroup : Nat) (fails : Bool)
  | marbleMismatch (k : BlockKey) (again : Bool) (laneGroup : Nat) (fails : Bool)
  | drowsyEntry (core part row : Nat)
  | scrub (level unit row : Nat)
  | hotPageWindow (die : Nat)
  | heldLineDrain (slice : Nat)
  | pseudoChannelFailure (stack ch : Nat)
  | spareCopyComplete (stack ch : Nat)
  | selfRefreshEntry (stack ch : Nat) (request : Bool)
  | routerPowerDown (router : Nat) (wake : Bool)
  -- Sloig Link messages and link events (R383 to R388)
  | rdS (p line tag : Nat)
  | rdX (p line tag : Nat)
  | upg (p line tag : Nat)
  | wb (p line tag : Nat) (data : List Byte) (poisoned : Bool)
  | ucRd (p line tag : Nat)
  | ucWr (p line tag mask : Nat) (data : List Byte) (poisoned : Bool)
  | atom (p line tag op : Nat) (wide : Bool) (offset : Nat) (operand expected : Word) (poisoned : Bool)
  | inv (p line tag : Nat)
  | recall (p line tag : Nat)
  | fwdS (p line tag dest : Nat)
  | reHome (p line tag newLine : Nat)
  | data (p tag : Nat) (bytes : List Byte) (poisoned : Bool)
  | ack (p tag : Nat)
  | invAck (p tag : Nat)
  | atomRsp (p tag : Nat) (old : Word) (poisoned : Bool)
  | replayRequest (port seq : Nat)
  | training (port version lanes partner : Nat)
  | laneFailure (port : Nat)
  | messageLost (tag : Nat)
  | cxlCompletionTimeout (req : CxlRequest)
  -- The host, firmware, management (R219, R379, R380, R393 to R395)
  | hostCxlMemAccess (write : Bool) (pa : Nat) (bytes : List Byte)
  | hostSnoop (line : Nat) (bytes : List Byte)
  | birsp (line : Nat)
  | errlogWrite (v : Word)
  | boot (imgs : ImageChain)
  | flitCrcFailure (port : Nat)
  | faultQueueConsumerCountWrite (f : Nat)
  | candidateWaitExpiry (c : Nat)
  | yieldExpiry (k : BlockKey)
  | refresh (stack ch errors : Nat)
  | managementRequest (r : Management)
  | debuggerRead (core part row : Nat)
  -- Attestation and update (R394, R395)
  | attestationRequest (nonce : List Byte)
  | firmwareUpdate (img : Image)
  -- Instructions and events without operands (R39, R41, R208, R221, R297, R331, R355, R391, R395)
  | rth
  | exit
  | yield
  | noticedone
  | sjoin
  | tlbinvAll
  | placeGang
  | thermalTrip
  | deviceReset
  deriving DecidableEq, Repr

end Sys2Proof
end

