-- ==== Sys2Proof/WellFormed.lean ====
section
/-! DEFINITION. Which instructions have a word: the field ranges and reserved values of R57 to R73.

An instruction whose fields break a rule here has no word of the opcode map that means it; the words
that would hold such fields raise ILLEGAL (R53).  An event has no word. -/
namespace Sys2Proof

/-- The order class of an annotation code (R59). -/
inductive OrderKind where
  | none | rlx | acq | rel | acqrel | sc
  deriving DecidableEq, Repr

/-- The order class that code `o` names; 31 names none and is refused by every legality test (R59). -/
def Os.kind (o : Os) : OrderKind :=
  if o.toNat = 0 then .none
  else match (o.toNat - 1) / 6 with
    | 0 => .rlx
    | 1 => .acq
    | 2 => .rel
    | 3 => .acqrel
    | _ => .sc

/-- The scope number of code `o`: 0 BLOCK to 5 SYSTEM (R59). -/
def Os.scope (o : Os) : Nat := (o.toNat - 1) % 6

/-- Codes legal on a load: none, acq or sc (R59). -/
def Os.okLoad (o : Os) : Bool :=
  o.toNat < 31 && (o.kind == .none || o.kind == .acq || o.kind == .sc)

/-- Codes legal on a store: none, rel or sc (R59). -/
def Os.okStore (o : Os) : Bool :=
  o.toNat < 31 && (o.kind == .none || o.kind == .rel || o.kind == .sc)

/-- Codes legal on an atomic: 1 to 30 (R59). -/
def Os.okAtomic (o : Os) : Bool := 1 ≤ o.toNat && o.toNat ≤ 30

/-- Codes legal on FENCE: 7 to 30 (R73). -/
def Os.okFence (o : Os) : Bool := 7 ≤ o.toNat && o.toNat ≤ 30

/-- Codes legal on EVWAIT: acq or sc (R73). -/
def Os.okWait (o : Os) : Bool := o.toNat < 31 && (o.kind == .acq || o.kind == .sc)

/-- The read and write levels of control register `n`; no write level means read-only (R204). -/
def csrLevels (n : Nat) : Option (Nat × Option Nat) :=
  match n with
  | 0x000 | 0x001 | 0x002 | 0x003 | 0x004 | 0x005 | 0x006 => some (0, some 0)
  | 0x010 => some (0, none)
  | 0x011 | 0x012 | 0x013 | 0x014 => some (0, some 0)
  | 0x015 => some (0, none)
  | 0x020 | 0x021 | 0x022 | 0x023 | 0x024 | 0x025 | 0x026 | 0x027 | 0x028 => some (0, none)
  | 0x030 => some (0, none)
  | 0x100 => some (0, some 1)
  | 0x200 | 0x201 => some (2, some 2)
  | _ => none

/-- The read and write levels of counter `n` (R377). -/
def counterLevels (n : Nat) : Option (Nat × Option Nat) :=
  if n ≤ 0x002 then some (0, none)
  else if 0x010 ≤ n ∧ n ≤ 0x01F then some (0, some 1)
  else if 0x100 ≤ n ∧ n ≤ 0x105 then some (1, some 2)
  else if 0x110 ≤ n ∧ n ≤ 0x16F ∧ n % 16 ≤ 6 then some (1, some 2)
  else if 0x200 ≤ n ∧ n ≤ 0x2FF then some (1, some 2)
  else if 0x300 ≤ n ∧ n ≤ 0x317 then some (1, some 2)
  else if 0x320 ≤ n ∧ n ≤ 0x337 then some (1, some 2)
  else none

/-- The number names a register, and one that may be written at some level. -/
def writable (l : Option (Nat × Option Nat)) : Bool :=
  match l with
  | some (_, some _) => true
  | _ => false

/-- An rm field of majors 0x19 and 0x1A, AMOV and lane words: 0 to 4 (R60). -/
def Rm.okPlain (r : Rm) : Bool := r.toNat ≤ 4

/-- The rm and b fields of major 0x1B: field b is used with SR alone; rm 6 and 7 raise TYPE_STATE at
issue (R60, R155). -/
def Rm.okConvert (r : Rm) (b : Reg) : Bool := r.toNat == 5 || b == 0

/-- A reduction operation: 0 to 5 (R69). -/
def redopOk (x : BitVec 3) : Bool := x.toNat ≤ 5

/-- A scope field: 0 to 5 (R73). -/
def scopeOk (s : BitVec 3) : Bool := s.toNat ≤ 5

/-- An even pair: s2 to s30 (R57). -/
def PairNo.ok (p : PairNo) : Bool := p != 0

/-- The field ranges of R57 to R73, by instruction; an event has no word and is not well formed. -/
def wellFormed (i : Instr) : Bool :=
  match i with
  | .add .. | .sub .. | .mul .. | .mulh .. | .mulhu .. | .div .. | .divu .. | .rem .. | .remu ..
  | .and .. | .or .. | .xor .. | .andn .. | .shl .. | .shr .. | .sra .. | .rot .. | .min .. | .max ..
  | .minu .. | .maxu .. | .clz .. | .ctz .. | .popc .. | .bfx .. | .bfi .. | .sel .. => true
  | .addi .. | .andi .. | .ori .. | .xori .. | .shli .. | .shri .. | .srai .. | .roti .. => true
  | .lui .. | .auipc .. => true
  | .addx _ _ _ s => s.toNat ≤ 6
  | .cmp _ _ _ c => c.toNat ≤ 5
  | .cmpi _ _ c _ => c.toNat ≤ 5
  | .pand .. | .por .. | .pxor .. | .pnot .. | .pmov .. => true
  | .ldb _ _ _ _ o | .ldh _ _ _ _ o | .ldw _ _ _ _ o | .ldd _ _ _ _ o | .ldbz _ _ _ _ o
  | .ldhz _ _ _ _ o | .ldwz _ _ _ _ o => o.okLoad
  | .stb _ _ _ _ o | .sth _ _ _ _ o | .stw _ _ _ _ o | .std _ _ _ _ o => o.okStore
  | .amo _ _ _ p w o => p.toNat ≤ 10 && w.toNat ≤ 1 && o.okAtomic
  | .b .. | .bz .. | .bnz .. | .j .. | .jal .. | .jr .. => true
  | .loop _ o => o.msb
  | .csrr _ c => (csrLevels c.toNat).isSome
  | .csrw _ _ c | .csrs _ _ c | .csrc _ _ c => writable (csrLevels c.toNat)
  | .trap .. | .rth | .exit | .yield | .wait .. | .noticedone | .poison .. | .marble .. => true
  | .shape .. | .shapeq .. | .tbind .. | .tfree .. => true
  | .tadd _ _ _ _ r | .tsub _ _ _ _ r | .tmul _ _ _ _ r | .tfma _ _ _ _ r | .tfms _ _ _ _ r
  | .tmin _ _ _ _ r | .tmax _ _ _ _ r | .tand _ _ _ _ r | .tor _ _ _ _ r | .txor _ _ _ _ r
  | .tshl _ _ _ _ r | .tshr _ _ _ _ r | .tsel _ _ _ _ r => r.okPlain
  | .tcmp .. => true
  | .tabs _ _ _ r | .tneg _ _ _ r | .trcp _ _ _ r | .trsq _ _ _ r | .texp _ _ _ r | .tlog _ _ _ r
  | .ttanh _ _ _ r => r.okPlain
  | .tcvt _ _ b _ _ r | .tqnt _ _ b _ _ r | .tdq _ _ b _ _ r => r.okConvert b
  | .tmov .. | .tbcast .. | .tiota .. | .ttrans .. | .tslide .. | .tperm .. => true
  | .tredr _ _ _ x | .tredc _ _ _ x | .tscan _ _ _ x => redopOk x
  | .tnz .. | .tcomp .. | .texpd .. | .tgets .. | .tclass .. | .tpmask .. => true
  | .mand .. | .mor .. | .mxor .. | .mnot .. | .mpopc .. | .mfirst .. | .msets .. | .mpsum .. => true
  | .map .. | .map3 .. | .reduce .. | .scan .. => true
  | .tld _ _ _ _ o | .tldb _ _ _ _ o => o.okLoad
  | .tlds _ _ _ _ _ o | .tldg _ _ _ _ _ o | .tldw _ _ _ _ _ o | .tldc _ _ _ _ _ o => o.okLoad
  | .tldsh .. | .tldm .. => true
  | .tst _ _ _ _ o => o.okStore
  | .tsts _ _ _ _ _ o | .tsct _ _ _ _ _ o | .tscta _ _ _ _ _ o => o.okStore
  | .tatom _ _ _ _ p o => p.toNat ≤ 6 && o.okAtomic
  | .tstsh .. => true
  | .mma _ _ _ _ t _ => t.toNat ≤ 8
  | .mmas _ _ _ m t _ => t.toNat ≤ 8 && m != 0 && m != 7
  | .mmav _ _ p _ _ t => p.ok && 1 ≤ t.toNat && t.toNat ≤ 8
  | .azero .. => true
  | .amov _ _ _ r _ => r.okPlain
  | .tamov .. | .ald .. | .ast .. => true
  | .copy _ _ c s | .copyg _ _ c s | .copyx _ _ c s => c.ok && scopeOk s
  | .copyz _ c s => c.ok && scopeOk s
  | .cpin .. | .cunpin .. | .cevict .. | .cpref .. => true
  | .fence o => o.okFence
  | .sjoin => true
  | .launch .. | .send .. | .recv .. | .recvt .. => true
  | .evwait _ _ _ o => o.okWait
  | .qfill _ _ c s => c.ok && scopeOk s
  | .qpop .. => true
  | .gnode .. | .glink .. => true
  | .gsubmit _ _ s => scopeOk s
  | .tlbinvPage .. | .tlbinvAsid .. | .tlbinvAll => true
  | .cntr _ n => (counterLevels n.toNat).isSome
  | .cntw _ n => writable (counterLevels n.toNat)
  | .blockPromotion .. | .blockWake .. | .waitExpiry .. | .recvtTimeout .. | .noticeEntry ..
  | .noticeWindowExpiry .. | .hardPreemption .. | .saveComplete .. | .placeGang
  | .launchCompletion .. => false
  | .producerCountWrite .. | .queueDescriptorWrite .. | .launchRecord .. | .preemptRecord ..
  | .restoreRecord .. | .abortRecord .. | .faultAnswer .. | .loadReissue .. | .loadArrival ..
  | .writePerformed .. | .transferArrival .. | .mmavStopPoint .. => false
  | .engineCompletion .. | .engineAbandon .. | .copyxSwitch .. | .fillEntry .. | .nodeStart ..
  | .nodeDone .. | .nodeAbandon .. | .graphCompletion .. => false
  | .energyCharge .. | .thermalCapChange .. | .thermalTrip .. | .softErrorReplay .. | .marbleMismatch ..
  | .drowsyEntry .. | .scrub .. | .hotPageWindow .. | .heldLineDrain .. | .pseudoChannelFailure ..
  | .spareCopyComplete .. | .selfRefreshEntry .. | .routerPowerDown .. => false
  | .rdS .. | .rdX .. | .upg .. | .wb .. | .ucRd .. | .ucWr .. | .atom .. | .inv .. | .recall ..
  | .fwdS .. | .reHome .. | .data .. | .ack .. | .invAck .. | .atomRsp .. | .replayRequest ..
  | .training .. | .laneFailure .. | .messageLost .. | .cxlCompletionTimeout .. => false
  | .hostCxlMemAccess .. | .hostSnoop .. | .birsp .. | .errlogWrite .. | .boot ..
  | .attestationRequest .. | .firmwareUpdate .. | .deviceReset | .flitCrcFailure ..
  | .faultQueueConsumerCountWrite .. | .candidateWaitExpiry .. | .yieldExpiry .. | .refresh ..
  | .managementRequest .. | .debuggerRead .. => false

end Sys2Proof
end

