-- ==== Sys2Proof/Decode.lean ====
section
/-! DEFINITION. Decoding of instruction words (R52 to R73), total on any word, and the encoder.

`decode` reads a word in the block map: `none` is every word that raises ILLEGAL at static decode
(R53).  `encode` is written from the same layouts. -/
namespace Sys2Proof

/-- Field d, bits 25:21 (R56). -/
def fd (w : Insn) : BitVec 5 := w.extractLsb' 21 5
/-- Field a, bits 20:16 (R56). -/
def fa (w : Insn) : BitVec 5 := w.extractLsb' 16 5
/-- Field b or index, bits 15:11 (R56). -/
def fb (w : Insn) : BitVec 5 := w.extractLsb' 11 5
/-- The mask field, bits 10:8 (R56). -/
def fm (w : Insn) : BitVec 3 := w.extractLsb' 8 3
/-- The order and scope annotation, bits 4:0 (R59). -/
def fo (w : Insn) : BitVec 5 := w.extractLsb' 0 5
/-- The hint, bit 7 (R59). -/
def fh (w : Insn) : BitVec 1 := w.extractLsb' 7 1

/-- The instruction `i` where the word's reserved fields are zero (R53, R57). -/
def only (c : Bool) (i : Instr) : Option Instr := if c then some i else none

/-- Major 0x01, scalar ALU (R64). -/
def decodeAlu (w : Insn) : Option Instr :=
  match (w.extractLsb' 6 5).toNat with
  | 0 => only (w.extractLsb' 0 6 == 0) (.add (fd w) (fa w) (fb w))
  | 1 => only (w.extractLsb' 0 6 == 0) (.sub (fd w) (fa w) (fb w))
  | 2 => only (w.extractLsb' 0 6 == 0) (.mul (fd w) (fa w) (fb w))
  | 3 => only (w.extractLsb' 0 6 == 0) (.mulh (fd w) (fa w) (fb w))
  | 4 => only (w.extractLsb' 0 6 == 0) (.mulhu (fd w) (fa w) (fb w))
  | 5 => only (w.extractLsb' 0 6 == 0) (.div (fd w) (fa w) (fb w))
  | 6 => only (w.extractLsb' 0 6 == 0) (.divu (fd w) (fa w) (fb w))
  | 7 => only (w.extractLsb' 0 6 == 0) (.rem (fd w) (fa w) (fb w))
  | 8 => only (w.extractLsb' 0 6 == 0) (.remu (fd w) (fa w) (fb w))
  | 9 => only (w.extractLsb' 0 6 == 0) (.and (fd w) (fa w) (fb w))
  | 10 => only (w.extractLsb' 0 6 == 0) (.or (fd w) (fa w) (fb w))
  | 11 => only (w.extractLsb' 0 6 == 0) (.xor (fd w) (fa w) (fb w))
  | 12 => only (w.extractLsb' 0 6 == 0) (.andn (fd w) (fa w) (fb w))
  | 13 => only (w.extractLsb' 0 6 == 0) (.shl (fd w) (fa w) (fb w))
  | 14 => only (w.extractLsb' 0 6 == 0) (.shr (fd w) (fa w) (fb w))
  | 15 => only (w.extractLsb' 0 6 == 0) (.sra (fd w) (fa w) (fb w))
  | 16 => only (w.extractLsb' 0 6 == 0) (.rot (fd w) (fa w) (fb w))
  | 17 => only (w.extractLsb' 0 6 == 0) (.min (fd w) (fa w) (fb w))
  | 18 => only (w.extractLsb' 0 6 == 0) (.max (fd w) (fa w) (fb w))
  | 19 => only (w.extractLsb' 0 6 == 0) (.minu (fd w) (fa w) (fb w))
  | 20 => only (w.extractLsb' 0 6 == 0) (.maxu (fd w) (fa w) (fb w))
  | 21 => only (fb w == 0 && w.extractLsb' 0 6 == 0) (.clz (fd w) (fa w))
  | 22 => only (fb w == 0 && w.extractLsb' 0 6 == 0) (.ctz (fd w) (fa w))
  | 23 => only (fb w == 0 && w.extractLsb' 0 6 == 0) (.popc (fd w) (fa w))
  | 24 => some (.bfx (fd w) (fa w) (fb w) (w.extractLsb' 0 6))
  | 25 => some (.bfi (fd w) (fa w) (fb w) (w.extractLsb' 0 6))
  | 26 => only (w.extractLsb' 3 3 == 0) (.sel (fd w) (fa w) (fb w) (w.extractLsb' 0 3))
  | _ => none

/-- Major 0x06, shifts by an immediate (R65). -/
def decodeShiftImm (w : Insn) : Option Instr :=
  match (w.extractLsb' 14 2).toNat with
  | 0 => only (w.extractLsb' 6 8 == 0) (.shli (fd w) (fa w) (w.extractLsb' 0 6))
  | 1 => only (w.extractLsb' 6 8 == 0) (.shri (fd w) (fa w) (w.extractLsb' 0 6))
  | 2 => only (w.extractLsb' 6 8 == 0) (.srai (fd w) (fa w) (w.extractLsb' 0 6))
  | 3 => only (w.extractLsb' 6 8 == 0) (.roti (fd w) (fa w) (w.extractLsb' 0 6))
  | _ => none

/-- Major 0x0C, predicates (R65). -/
def decodePred (w : Insn) : Option Instr :=
  match (w.extractLsb' 0 3).toNat with
  | 0 =>
    only (w.extractLsb' 24 2 == 0 && w.extractLsb' 19 2 == 0 && w.extractLsb' 14 2 == 0 && w.extractLsb' 3 8 == 0) (.pand (w.extractLsb' 21 3) (w.extractLsb' 16 3) (w.extractLsb' 11 3))
  | 1 =>
    only (w.extractLsb' 24 2 == 0 && w.extractLsb' 19 2 == 0 && w.extractLsb' 14 2 == 0 && w.extractLsb' 3 8 == 0) (.por (w.extractLsb' 21 3) (w.extractLsb' 16 3) (w.extractLsb' 11 3))
  | 2 =>
    only (w.extractLsb' 24 2 == 0 && w.extractLsb' 19 2 == 0 && w.extractLsb' 14 2 == 0 && w.extractLsb' 3 8 == 0) (.pxor (w.extractLsb' 21 3) (w.extractLsb' 16 3) (w.extractLsb' 11 3))
  | 3 =>
    only (w.extractLsb' 24 2 == 0 && w.extractLsb' 19 2 == 0 && w.extractLsb' 3 13 == 0) (.pnot (w.extractLsb' 21 3) (w.extractLsb' 16 3))
  | 4 =>
    only (w.extractLsb' 24 2 == 0 && w.extractLsb' 19 2 == 0 && w.extractLsb' 3 13 == 0) (.pmov (w.extractLsb' 21 3) (w.extractLsb' 16 3))
  | _ => none

/-- Major 0x0D, scalar loads (R66). -/
def decodeLoad (w : Insn) : Option Instr :=
  match (w.extractLsb' 8 3).toNat with
  | 0 => only (w.extractLsb' 5 2 == 0) (.ldb (fd w) (fa w) (fb w) (fh w) (fo w))
  | 1 => only (w.extractLsb' 5 2 == 0) (.ldh (fd w) (fa w) (fb w) (fh w) (fo w))
  | 2 => only (w.extractLsb' 5 2 == 0) (.ldw (fd w) (fa w) (fb w) (fh w) (fo w))
  | 3 => only (w.extractLsb' 5 2 == 0) (.ldd (fd w) (fa w) (fb w) (fh w) (fo w))
  | 4 => only (w.extractLsb' 5 2 == 0) (.ldbz (fd w) (fa w) (fb w) (fh w) (fo w))
  | 5 => only (w.extractLsb' 5 2 == 0) (.ldhz (fd w) (fa w) (fb w) (fh w) (fo w))
  | 6 => only (w.extractLsb' 5 2 == 0) (.ldwz (fd w) (fa w) (fb w) (fh w) (fo w))
  | _ => none

/-- Major 0x0E, scalar stores (R66). -/
def decodeStore (w : Insn) : Option Instr :=
  match (w.extractLsb' 8 3).toNat with
  | 0 => only (w.extractLsb' 5 2 == 0) (.stb (fd w) (fa w) (fb w) (fh w) (fo w))
  | 1 => only (w.extractLsb' 5 2 == 0) (.sth (fd w) (fa w) (fb w) (fh w) (fo w))
  | 2 => only (w.extractLsb' 5 2 == 0) (.stw (fd w) (fa w) (fb w) (fh w) (fo w))
  | 3 => only (w.extractLsb' 5 2 == 0) (.std (fd w) (fa w) (fb w) (fh w) (fo w))
  | _ => none

/-- Major 0x11, BZ and BNZ (R67). -/
def decodeBranchZero (w : Insn) : Option Instr :=
  match (w.extractLsb' 20 1).toNat with
  | 0 => some (.bz (fd w) (w.extractLsb' 0 20))
  | 1 => some (.bnz (fd w) (w.extractLsb' 0 20))
  | _ => none

/-- Major 0x16, control registers (R68). -/
def decodeCsr (w : Insn) : Option Instr :=
  match (w.extractLsb' 14 2).toNat with
  | 0 => only (fa w == 0 && w.extractLsb' 12 2 == 0) (.csrr (fd w) (w.extractLsb' 0 12))
  | 1 => only (w.extractLsb' 12 2 == 0) (.csrw (fd w) (fa w) (w.extractLsb' 0 12))
  | 2 => only (w.extractLsb' 12 2 == 0) (.csrs (fd w) (fa w) (w.extractLsb' 0 12))
  | 3 => only (w.extractLsb' 12 2 == 0) (.csrc (fd w) (fa w) (w.extractLsb' 0 12))
  | _ => none

/-- Major 0x17, system (R68). -/
def decodeSystem (w : Insn) : Option Instr :=
  match (w.extractLsb' 0 4).toNat with
  | 0 => only (w.extractLsb' 11 15 == 0) (.trap (w.extractLsb' 4 7))
  | 1 => only (w.extractLsb' 4 22 == 0) (.rth)
  | 2 => only (w.extractLsb' 4 22 == 0) (.exit)
  | 3 => only (w.extractLsb' 4 22 == 0) (.yield)
  | 4 => only (fd w == 0 && w.extractLsb' 4 12 == 0) (.wait (fa w))
  | 5 => only (w.extractLsb' 4 22 == 0) (.noticedone)
  | 6 => only (w.extractLsb' 4 12 == 0) (.poison (fd w) (fa w))
  | 7 => only (fd w == 0 && w.extractLsb' 4 12 == 0) (.marble (fa w))
  | _ => none

/-- Major 0x18, shapes (R69). -/
def decodeShape (w : Insn) : Option Instr :=
  match (w.extractLsb' 8 3).toNat with
  | 0 => only (w.extractLsb' 0 4 == 0) (.shape (fd w) (fa w) (fb w) (w.extractLsb' 4 4))
  | 1 => only (w.extractLsb' 0 8 == 0) (.shapeq (fd w) (fa w) (fb w))
  | 2 =>
    only (w.extractLsb' 11 10 == 0 && w.extractLsb' 0 4 == 0) (.tbind (fd w) (w.extractLsb' 4 4))
  | 3 => only (w.extractLsb' 11 10 == 0 && w.extractLsb' 0 8 == 0) (.tfree (fd w))
  | _ => none

/-- Major 0x19, tile arithmetic (R69). -/
def decodeTileArith (w : Insn) : Option Instr :=
  match (w.extractLsb' 3 5).toNat with
  | 0 => some (.tadd (fd w) (fa w) (fb w) (fm w) (w.extractLsb' 0 3))
  | 1 => some (.tsub (fd w) (fa w) (fb w) (fm w) (w.extractLsb' 0 3))
  | 2 => some (.tmul (fd w) (fa w) (fb w) (fm w) (w.extractLsb' 0 3))
  | 3 => some (.tfma (fd w) (fa w) (fb w) (fm w) (w.extractLsb' 0 3))
  | 4 => some (.tfms (fd w) (fa w) (fb w) (fm w) (w.extractLsb' 0 3))
  | 5 => some (.tmin (fd w) (fa w) (fb w) (fm w) (w.extractLsb' 0 3))
  | 6 => some (.tmax (fd w) (fa w) (fb w) (fm w) (w.extractLsb' 0 3))
  | 7 => some (.tand (fd w) (fa w) (fb w) (fm w) (w.extractLsb' 0 3))
  | 8 => some (.tor (fd w) (fa w) (fb w) (fm w) (w.extractLsb' 0 3))
  | 9 => some (.txor (fd w) (fa w) (fb w) (fm w) (w.extractLsb' 0 3))
  | 10 => some (.tshl (fd w) (fa w) (fb w) (fm w) (w.extractLsb' 0 3))
  | 11 => some (.tshr (fd w) (fa w) (fb w) (fm w) (w.extractLsb' 0 3))
  | 12 =>
    only (w.extractLsb' 24 2 == 0) (.tcmp (w.extractLsb' 21 3) (fa w) (fb w) (fm w) (w.extractLsb' 0 3))
  | 13 => some (.tsel (fd w) (fa w) (fb w) (fm w) (w.extractLsb' 0 3))
  | _ => none

/-- Major 0x1A, unary tile functions (R69). -/
def decodeTileUnary (w : Insn) : Option Instr :=
  match (w.extractLsb' 3 5).toNat with
  | 0 => only (fb w == 0) (.tabs (fd w) (fa w) (fm w) (w.extractLsb' 0 3))
  | 1 => only (fb w == 0) (.tneg (fd w) (fa w) (fm w) (w.extractLsb' 0 3))
  | 2 => only (fb w == 0) (.trcp (fd w) (fa w) (fm w) (w.extractLsb' 0 3))
  | 3 => only (fb w == 0) (.trsq (fd w) (fa w) (fm w) (w.extractLsb' 0 3))
  | 4 => only (fb w == 0) (.texp (fd w) (fa w) (fm w) (w.extractLsb' 0 3))
  | 5 => only (fb w == 0) (.tlog (fd w) (fa w) (fm w) (w.extractLsb' 0 3))
  | 6 => only (fb w == 0) (.ttanh (fd w) (fa w) (fm w) (w.extractLsb' 0 3))
  | _ => none

/-- Major 0x1B, conversions (R69). -/
def decodeTileConvert (w : Insn) : Option Instr :=
  match (w.extractLsb' 6 2).toNat with
  | 0 =>
    only (w.extractLsb' 0 2 == 0) (.tcvt (fd w) (fa w) (fb w) (fm w) (w.extractLsb' 5 1) (w.extractLsb' 2 3))
  | 1 =>
    only (w.extractLsb' 0 2 == 0) (.tqnt (fd w) (fa w) (fb w) (fm w) (w.extractLsb' 5 1) (w.extractLsb' 2 3))
  | 2 =>
    only (w.extractLsb' 0 2 == 0) (.tdq (fd w) (fa w) (fb w) (fm w) (w.extractLsb' 5 1) (w.extractLsb' 2 3))
  | _ => none

/-- Major 0x1C, movement (R69). -/
def decodeTileMove (w : Insn) : Option Instr :=
  match (w.extractLsb' 3 5).toNat with
  | 0 => only (fb w == 0 && w.extractLsb' 0 3 == 0) (.tmov (fd w) (fa w) (fm w))
  | 1 => only (fb w == 0 && w.extractLsb' 0 3 == 0) (.tbcast (fd w) (fa w) (fm w))
  | 2 => only (w.extractLsb' 0 3 == 0) (.tiota (fd w) (fa w) (fb w) (fm w))
  | 3 => only (fb w == 0 && w.extractLsb' 0 3 == 0) (.ttrans (fd w) (fa w) (fm w))
  | 4 => only (w.extractLsb' 0 3 == 0) (.tslide (fd w) (fa w) (fb w) (fm w))
  | 5 => only (w.extractLsb' 0 3 == 0) (.tperm (fd w) (fa w) (fb w) (fm w))
  | _ => none

/-- Major 0x1D, reductions, scans, compaction (R69). -/
def decodeTileReduce (w : Insn) : Option Instr :=
  match (w.extractLsb' 4 4).toNat with
  | 0 =>
    only (fb w == 0 && w.extractLsb' 0 1 == 0) (.tredr (fd w) (fa w) (fm w) (w.extractLsb' 1 3))
  | 1 =>
    only (fb w == 0 && w.extractLsb' 0 1 == 0) (.tredc (fd w) (fa w) (fm w) (w.extractLsb' 1 3))
  | 2 =>
    only (fb w == 0 && w.extractLsb' 0 1 == 0) (.tscan (fd w) (fa w) (fm w) (w.extractLsb' 1 3))
  | 3 => only (fb w == 0 && w.extractLsb' 0 4 == 0) (.tnz (fd w) (fa w) (fm w))
  | 4 => only (fb w == 0 && w.extractLsb' 0 4 == 0) (.tcomp (fd w) (fa w) (fm w))
  | 5 => only (fb w == 0 && w.extractLsb' 0 4 == 0) (.texpd (fd w) (fa w) (fm w))
  | 6 => only (fm w == 0 && w.extractLsb' 0 4 == 0) (.tgets (fd w) (fa w) (fb w))
  | 7 =>
    only (w.extractLsb' 24 2 == 0 && fb w == 0) (.tclass (w.extractLsb' 21 3) (fa w) (fm w) (w.extractLsb' 0 4))
  | 8 =>
    only (w.extractLsb' 24 2 == 0 && fb w == 0 && w.extractLsb' 0 4 == 0) (.tpmask (w.extractLsb' 21 3) (fa w) (fm w))
  | _ => none

/-- Major 0x1E, masks (R69). -/
def decodeMask (w : Insn) : Option Instr :=
  match (w.extractLsb' 3 5).toNat with
  | 0 =>
    only (w.extractLsb' 24 2 == 0 && w.extractLsb' 19 2 == 0 && w.extractLsb' 14 2 == 0 && fm w == 0 && w.extractLsb' 0 3 == 0) (.mand (w.extractLsb' 21 3) (w.extractLsb' 16 3) (w.extractLsb' 11 3))
  | 1 =>
    only (w.extractLsb' 24 2 == 0 && w.extractLsb' 19 2 == 0 && w.extractLsb' 14 2 == 0 && fm w == 0 && w.extractLsb' 0 3 == 0) (.mor (w.extractLsb' 21 3) (w.extractLsb' 16 3) (w.extractLsb' 11 3))
  | 2 =>
    only (w.extractLsb' 24 2 == 0 && w.extractLsb' 19 2 == 0 && w.extractLsb' 14 2 == 0 && fm w == 0 && w.extractLsb' 0 3 == 0) (.mxor (w.extractLsb' 21 3) (w.extractLsb' 16 3) (w.extractLsb' 11 3))
  | 3 =>
    only (w.extractLsb' 24 2 == 0 && w.extractLsb' 19 2 == 0 && w.extractLsb' 8 8 == 0 && w.extractLsb' 0 3 == 0) (.mnot (w.extractLsb' 21 3) (w.extractLsb' 16 3))
  | 4 =>
    only (w.extractLsb' 19 2 == 0 && w.extractLsb' 8 8 == 0 && w.extractLsb' 0 3 == 0) (.mpopc (fd w) (w.extractLsb' 16 3))
  | 5 =>
    only (w.extractLsb' 19 2 == 0 && w.extractLsb' 8 8 == 0 && w.extractLsb' 0 3 == 0) (.mfirst (fd w) (w.extractLsb' 16 3))
  | 6 =>
    only (w.extractLsb' 24 2 == 0 && w.extractLsb' 8 8 == 0 && w.extractLsb' 0 3 == 0) (.msets (w.extractLsb' 21 3) (fa w))
  | 7 =>
    only (w.extractLsb' 19 2 == 0 && w.extractLsb' 8 8 == 0 && w.extractLsb' 0 3 == 0) (.mpsum (fd w) (w.extractLsb' 16 3))
  | _ => none

/-- Major 0x1F, lane-function calls (R70). -/
def decodeLane (w : Insn) : Option Instr :=
  match (w.extractLsb' 6 2).toNat with
  | 0 => only (w.extractLsb' 5 1 == 0) (.map (fd w) (fa w) (fb w) (fm w) (fo w))
  | 1 => only (w.extractLsb' 5 1 == 0) (.map3 (fd w) (fa w) (fb w) (fm w) (fo w))
  | 2 => only (fb w == 0 && w.extractLsb' 5 1 == 0) (.reduce (fd w) (fa w) (fm w) (fo w))
  | 3 => only (fb w == 0 && w.extractLsb' 5 1 == 0) (.scan (fd w) (fa w) (fm w) (fo w))
  | _ => none

/-- Major 0x20, tile loads (R71). -/
def decodeTileLoad (w : Insn) : Option Instr :=
  match (w.extractLsb' 5 2).toNat with
  | 0 => only (fb w == 0) (.tld (fd w) (fa w) (fm w) (fh w) (fo w))
  | 1 => some (.tlds (fd w) (fa w) (fb w) (fm w) (fh w) (fo w))
  | 2 => only (fb w == 0) (.tldb (fd w) (fa w) (fm w) (fh w) (fo w))
  | _ => none

/-- Major 0x21, TLDG (R71). -/
def decodeGather (w : Insn) : Option Instr :=
  match (w.extractLsb' 5 2).toNat with
  | 0 => some (.tldg (fd w) (fa w) (fb w) (fm w) (fh w) (fo w))
  | _ => none

/-- Major 0x22, TLDW (R71). -/
def decodeWindow (w : Insn) : Option Instr :=
  match (w.extractLsb' 5 2).toNat with
  | 0 => some (.tldw (fd w) (fa w) (fb w) (fm w) (fh w) (fo w))
  | _ => none

/-- Major 0x23, TLDC (R71). -/
def decodeCompressed (w : Insn) : Option Instr :=
  match (w.extractLsb' 5 2).toNat with
  | 0 => some (.tldc (fd w) (fa w) (fb w) (fm w) (fh w) (fo w))
  | _ => none

/-- Major 0x24, TLDSH and TLDM (R71). -/
def decodeScratchLoad (w : Insn) : Option Instr :=
  match (w.extractLsb' 5 2).toNat with
  | 0 => only (fb w == 0 && fh w == 0 && fo w == 0) (.tldsh (fd w) (fa w) (fm w))
  | 1 =>
    only (w.extractLsb' 24 2 == 0 && w.extractLsb' 7 9 == 0 && fo w == 0) (.tldm (w.extractLsb' 21 3) (fa w))
  | _ => none

/-- Major 0x25, tile stores (R71). -/
def decodeTileStore (w : Insn) : Option Instr :=
  match (w.extractLsb' 5 2).toNat with
  | 0 => only (fb w == 0) (.tst (fd w) (fa w) (fm w) (fh w) (fo w))
  | 1 => some (.tsts (fd w) (fa w) (fb w) (fm w) (fh w) (fo w))
  | _ => none

/-- Major 0x26, scatters (R71). -/
def decodeScatter (w : Insn) : Option Instr :=
  match (w.extractLsb' 5 2).toNat with
  | 0 => some (.tsct (fd w) (fa w) (fb w) (fm w) (fh w) (fo w))
  | 1 => some (.tscta (fd w) (fa w) (fb w) (fm w) (fh w) (fo w))
  | _ => none

/-- Major 0x28, TSTSH (R71). -/
def decodeScratchStore (w : Insn) : Option Instr :=
  match (w.extractLsb' 5 2).toNat with
  | 0 => only (fb w == 0 && fh w == 0 && fo w == 0) (.tstsh (fd w) (fa w) (fm w))
  | _ => none

/-- Major 0x2C, the tile store (R72). -/
def decodeAcc (w : Insn) : Option Instr :=
  match (w.extractLsb' 5 3).toNat with
  | 0 => only (w.extractLsb' 8 13 == 0 && fo w == 0) (.azero (fd w))
  | 1 =>
    only (fb w == 0 && w.extractLsb' 0 1 == 0) (.amov (fd w) (fa w) (fm w) (w.extractLsb' 2 3) (w.extractLsb' 1 1))
  | 2 => only (fb w == 0 && fo w == 0) (.tamov (fd w) (fa w) (fm w))
  | 3 => only (fm w == 0 && fo w == 0) (.ald (fd w) (fa w) (fb w))
  | 4 => only (fm w == 0 && fo w == 0) (.ast (fd w) (fa w) (fb w))
  | _ => none

/-- Major 0x2D, COPY and COPYZ (R73). -/
def decodeCopy (w : Insn) : Option Instr :=
  match (w.extractLsb' 9 2).toNat with
  | 0 =>
    only (w.extractLsb' 11 1 == 0 && w.extractLsb' 0 6 == 0) (.copy (fd w) (fa w) (w.extractLsb' 12 4) (w.extractLsb' 6 3))
  | 1 =>
    only (fa w == 0 && w.extractLsb' 11 1 == 0 && w.extractLsb' 0 6 == 0) (.copyz (fd w) (w.extractLsb' 12 4) (w.extractLsb' 6 3))
  | _ => none

/-- Major 0x2E, COPYG and COPYX (R73). -/
def decodeCopyG (w : Insn) : Option Instr :=
  match (w.extractLsb' 9 2).toNat with
  | 0 =>
    only (w.extractLsb' 11 1 == 0 && w.extractLsb' 0 6 == 0) (.copyg (fd w) (fa w) (w.extractLsb' 12 4) (w.extractLsb' 6 3))
  | 1 =>
    only (w.extractLsb' 11 1 == 0 && w.extractLsb' 0 6 == 0) (.copyx (fd w) (fa w) (w.extractLsb' 12 4) (w.extractLsb' 6 3))
  | _ => none

/-- Major 0x2F, cache control (R71). -/
def decodeCache (w : Insn) : Option Instr :=
  match (w.extractLsb' 5 2).toNat with
  | 0 => only (fd w == 0 && w.extractLsb' 7 4 == 0 && fo w == 0) (.cpin (fa w) (fb w))
  | 1 => only (fd w == 0 && w.extractLsb' 7 4 == 0 && fo w == 0) (.cunpin (fa w) (fb w))
  | 2 => only (fd w == 0 && w.extractLsb' 7 4 == 0 && fo w == 0) (.cevict (fa w) (fb w))
  | 3 => only (fd w == 0 && w.extractLsb' 7 4 == 0 && fo w == 0) (.cpref (fa w) (fb w))
  | _ => none

/-- Major 0x30, FENCE and SJOIN (R73). -/
def decodeOrder (w : Insn) : Option Instr :=
  match (w.extractLsb' 8 3).toNat with
  | 0 => only (w.extractLsb' 11 15 == 0 && w.extractLsb' 5 3 == 0) (.fence (fo w))
  | 1 => only (w.extractLsb' 11 15 == 0 && w.extractLsb' 0 8 == 0) (.sjoin)
  | _ => none

/-- Major 0x32, SEND, RECV and RECVT (R73). -/
def decodeSend (w : Insn) : Option Instr :=
  match (w.extractLsb' 5 3).toNat with
  | 0 => only (fm w == 0 && fo w == 0) (.send (fd w) (fa w) (fb w))
  | 1 => only (w.extractLsb' 8 13 == 0 && fo w == 0) (.recv (fd w))
  | 2 =>
    only (fa w == 0 && fm w == 0 && w.extractLsb' 3 2 == 0) (.recvt (fd w) (fb w) (w.extractLsb' 0 3))
  | _ => none

/-- Major 0x34, QFILL and QPOP (R73). -/
def decodeQueue (w : Insn) : Option Instr :=
  match (w.extractLsb' 7 1).toNat with
  | 0 =>
    only (w.extractLsb' 11 1 == 0 && w.extractLsb' 0 7 == 0) (.qfill (fd w) (fa w) (w.extractLsb' 12 4) (fm w))
  | 1 => only (w.extractLsb' 8 8 == 0 && w.extractLsb' 0 7 == 0) (.qpop (fd w) (fa w))
  | _ => none

/-- Major 0x35, graphs (R73). -/
def decodeGraph (w : Insn) : Option Instr :=
  match (w.extractLsb' 9 2).toNat with
  | 0 => only (fb w == 0 && w.extractLsb' 0 9 == 0) (.gnode (fd w) (fa w))
  | 1 => only (fb w == 0 && w.extractLsb' 0 9 == 0) (.glink (fd w) (fa w))
  | 2 => only (fb w == 0 && w.extractLsb' 0 6 == 0) (.gsubmit (fd w) (fa w) (w.extractLsb' 6 3))
  | _ => none

/-- Major 0x36, TLBINV (R73). -/
def decodeTlbinv (w : Insn) : Option Instr :=
  match (w.extractLsb' 0 2).toNat with
  | 0 => only (fd w == 0 && w.extractLsb' 2 9 == 0) (.tlbinvPage (fa w) (fb w))
  | 1 => only (w.extractLsb' 16 10 == 0 && w.extractLsb' 2 9 == 0) (.tlbinvAsid (fb w))
  | 2 => only (w.extractLsb' 2 24 == 0) (.tlbinvAll)
  | _ => none

/-- Major 0x37, counters (R73). -/
def decodeCounter (w : Insn) : Option Instr :=
  match (w.extractLsb' 15 1).toNat with
  | 0 => only (fa w == 0 && w.extractLsb' 12 3 == 0) (.cntr (fd w) (w.extractLsb' 0 12))
  | 1 => only (fd w == 0 && w.extractLsb' 12 3 == 0) (.cntw (fa w) (w.extractLsb' 0 12))
  | _ => none

/-- The opcode map, by major (R62); majors 0x00 and 0x38 to 0x3F hold no instruction (R62, R63). -/
def decodeMap (w : Insn) : Option Instr :=
  match (w.extractLsb' 26 6).toNat with
  | 0x01 => decodeAlu w
  | 0x02 => some (.addi (fd w) (fa w) (w.extractLsb' 0 16))
  | 0x03 => some (.andi (fd w) (fa w) (w.extractLsb' 0 16))
  | 0x04 => some (.ori (fd w) (fa w) (w.extractLsb' 0 16))
  | 0x05 => some (.xori (fd w) (fa w) (w.extractLsb' 0 16))
  | 0x06 => decodeShiftImm w
  | 0x07 => some (.lui (fd w) (w.extractLsb' 0 21))
  | 0x08 => some (.auipc (fd w) (w.extractLsb' 0 21))
  | 0x09 => only (w.extractLsb' 3 8 == 0) (.addx (fd w) (fa w) (fb w) (w.extractLsb' 0 3))
  | 0x0A =>
    only (w.extractLsb' 24 2 == 0 && w.extractLsb' 4 7 == 0) (.cmp (w.extractLsb' 21 3) (fa w) (fb w) (w.extractLsb' 0 4))
  | 0x0B =>
    only (w.extractLsb' 24 2 == 0) (.cmpi (w.extractLsb' 21 3) (fa w) (w.extractLsb' 13 3) (w.extractLsb' 0 13))
  | 0x0C => decodePred w
  | 0x0D => decodeLoad w
  | 0x0E => decodeStore w
  | 0x0F => some (.amo (fd w) (fa w) (fb w) (w.extractLsb' 7 4) (w.extractLsb' 5 2) (fo w))
  | 0x10 => some (.b (w.extractLsb' 25 1) (w.extractLsb' 22 3) (w.extractLsb' 0 22))
  | 0x11 => decodeBranchZero w
  | 0x12 => only (fd w == 0) (.j (w.extractLsb' 0 21))
  | 0x13 => some (.jal (fd w) (w.extractLsb' 0 21))
  | 0x14 => only (w.extractLsb' 0 16 == 0) (.jr (fd w) (fa w))
  | 0x15 => only (fa w == 0) (.loop (fd w) (w.extractLsb' 0 16))
  | 0x16 => decodeCsr w
  | 0x17 => decodeSystem w
  | 0x18 => decodeShape w
  | 0x19 => decodeTileArith w
  | 0x1A => decodeTileUnary w
  | 0x1B => decodeTileConvert w
  | 0x1C => decodeTileMove w
  | 0x1D => decodeTileReduce w
  | 0x1E => decodeMask w
  | 0x1F => decodeLane w
  | 0x20 => decodeTileLoad w
  | 0x21 => decodeGather w
  | 0x22 => decodeWindow w
  | 0x23 => decodeCompressed w
  | 0x24 => decodeScratchLoad w
  | 0x25 => decodeTileStore w
  | 0x26 => decodeScatter w
  | 0x27 => some (.tatom (fd w) (fa w) (fb w) (fm w) (w.extractLsb' 5 3) (fo w))
  | 0x28 => decodeScratchStore w
  | 0x29 =>
    only (w.extractLsb' 0 3 == 0) (.mma (fd w) (fa w) (fb w) (fm w) (w.extractLsb' 4 4) (w.extractLsb' 3 1))
  | 0x2A =>
    only (w.extractLsb' 0 3 == 0) (.mmas (fd w) (fa w) (fb w) (fm w) (w.extractLsb' 4 4) (w.extractLsb' 3 1))
  | 0x2B =>
    only (w.extractLsb' 11 1 == 0 && fo w == 0) (.mmav (fd w) (fa w) (w.extractLsb' 12 4) (w.extractLsb' 10 1) (w.extractLsb' 9 1) (w.extractLsb' 5 4))
  | 0x2C => decodeAcc w
  | 0x2D => decodeCopy w
  | 0x2E => decodeCopyG w
  | 0x2F => decodeCache w
  | 0x30 => decodeOrder w
  | 0x31 => only (w.extractLsb' 0 16 == 0) (.launch (fd w) (fa w))
  | 0x32 => decodeSend w
  | 0x33 => only (w.extractLsb' 5 6 == 0) (.evwait (fd w) (fa w) (fb w) (fo w))
  | 0x34 => decodeQueue w
  | 0x35 => decodeGraph w
  | 0x36 => decodeTlbinv w
  | 0x37 => decodeCounter w
  | _ => none

/-- Static decode (R53): the map, then the field ranges of the instruction read. -/
def decode (w : Insn) : Option Instr :=
  match decodeMap w with
  | some i => only (wellFormed i) i
  | none => none

/-- The instruction of a little-endian word in memory (R52). -/
def decodeBytes (bs : List Byte) : Option Instr :=
  match bs with
  | [b0, b1, b2, b3] => decode (b3 ++ b2 ++ b1 ++ b0)
  | _ => none

/-- The little-endian bytes of a word (R52). -/
def wordBytes (w : Insn) : List Byte :=
  [w.extractLsb' 0 8, w.extractLsb' 8 8, w.extractLsb' 16 8, w.extractLsb' 24 8]

/-- What the decoder reads from the instruction whose first `nbits` bits are `w`; a row without a
word has none. -/
def decodeTableWord (nbits w : Nat) : Option Instr :=
  if nbits = 32 then decodeBytes (wordBytes (BitVec.ofNat 32 w)) else none

/-- The word of an instruction (R56 to R73); an event has none. -/
def encode (i : Instr) : Option Insn :=
  match i with
  | .add d a b => some (1#6 ++ d ++ a ++ b ++ 0#11)
  | .sub d a b => some (1#6 ++ d ++ a ++ b ++ 64#11)
  | .mul d a b => some (1#6 ++ d ++ a ++ b ++ 128#11)
  | .mulh d a b => some (1#6 ++ d ++ a ++ b ++ 192#11)
  | .mulhu d a b => some (1#6 ++ d ++ a ++ b ++ 256#11)
  | .div d a b => some (1#6 ++ d ++ a ++ b ++ 320#11)
  | .divu d a b => some (1#6 ++ d ++ a ++ b ++ 384#11)
  | .rem d a b => some (1#6 ++ d ++ a ++ b ++ 448#11)
  | .remu d a b => some (1#6 ++ d ++ a ++ b ++ 512#11)
  | .and d a b => some (1#6 ++ d ++ a ++ b ++ 576#11)
  | .or d a b => some (1#6 ++ d ++ a ++ b ++ 640#11)
  | .xor d a b => some (1#6 ++ d ++ a ++ b ++ 704#11)
  | .andn d a b => some (1#6 ++ d ++ a ++ b ++ 768#11)
  | .shl d a b => some (1#6 ++ d ++ a ++ b ++ 832#11)
  | .shr d a b => some (1#6 ++ d ++ a ++ b ++ 896#11)
  | .sra d a b => some (1#6 ++ d ++ a ++ b ++ 960#11)
  | .rot d a b => some (1#6 ++ d ++ a ++ b ++ 1024#11)
  | .min d a b => some (1#6 ++ d ++ a ++ b ++ 1088#11)
  | .max d a b => some (1#6 ++ d ++ a ++ b ++ 1152#11)
  | .minu d a b => some (1#6 ++ d ++ a ++ b ++ 1216#11)
  | .maxu d a b => some (1#6 ++ d ++ a ++ b ++ 1280#11)
  | .clz d a => some (1#6 ++ d ++ a ++ 1344#16)
  | .ctz d a => some (1#6 ++ d ++ a ++ 1408#16)
  | .popc d a => some (1#6 ++ d ++ a ++ 1472#16)
  | .bfx d a b l => some (1#6 ++ d ++ a ++ b ++ 24#5 ++ l)
  | .bfi d a b l => some (1#6 ++ d ++ a ++ b ++ 25#5 ++ l)
  | .sel d a b p => some (1#6 ++ d ++ a ++ b ++ 208#8 ++ p)
  | .addi d a i => some (2#6 ++ d ++ a ++ i)
  | .andi d a i => some (3#6 ++ d ++ a ++ i)
  | .ori d a i => some (4#6 ++ d ++ a ++ i)
  | .xori d a i => some (5#6 ++ d ++ a ++ i)
  | .shli d a c => some (6#6 ++ d ++ a ++ 0#10 ++ c)
  | .shri d a c => some (6#6 ++ d ++ a ++ 256#10 ++ c)
  | .srai d a c => some (6#6 ++ d ++ a ++ 512#10 ++ c)
  | .roti d a c => some (6#6 ++ d ++ a ++ 768#10 ++ c)
  | .lui d i => some (7#6 ++ d ++ i)
  | .auipc d i => some (8#6 ++ d ++ i)
  | .addx d a b s => some (9#6 ++ d ++ a ++ b ++ 0#8 ++ s)
  | .cmp d a b c => some (10#6 ++ 0#2 ++ d ++ a ++ b ++ 0#7 ++ c)
  | .cmpi d a c i => some (11#6 ++ 0#2 ++ d ++ a ++ c ++ i)
  | .pand d a b => some (12#6 ++ 0#2 ++ d ++ 0#2 ++ a ++ 0#2 ++ b ++ 0#11)
  | .por d a b => some (12#6 ++ 0#2 ++ d ++ 0#2 ++ a ++ 0#2 ++ b ++ 1#11)
  | .pxor d a b => some (12#6 ++ 0#2 ++ d ++ 0#2 ++ a ++ 0#2 ++ b ++ 2#11)
  | .pnot d a => some (12#6 ++ 0#2 ++ d ++ 0#2 ++ a ++ 3#16)
  | .pmov d a => some (12#6 ++ 0#2 ++ d ++ 0#2 ++ a ++ 4#16)
  | .ldb d a b h o => some (13#6 ++ d ++ a ++ b ++ 0#3 ++ h ++ 0#2 ++ o)
  | .ldh d a b h o => some (13#6 ++ d ++ a ++ b ++ 1#3 ++ h ++ 0#2 ++ o)
  | .ldw d a b h o => some (13#6 ++ d ++ a ++ b ++ 2#3 ++ h ++ 0#2 ++ o)
  | .ldd d a b h o => some (13#6 ++ d ++ a ++ b ++ 3#3 ++ h ++ 0#2 ++ o)
  | .ldbz d a b h o => some (13#6 ++ d ++ a ++ b ++ 4#3 ++ h ++ 0#2 ++ o)
  | .ldhz d a b h o => some (13#6 ++ d ++ a ++ b ++ 5#3 ++ h ++ 0#2 ++ o)
  | .ldwz d a b h o => some (13#6 ++ d ++ a ++ b ++ 6#3 ++ h ++ 0#2 ++ o)
  | .stb d a b h o => some (14#6 ++ d ++ a ++ b ++ 0#3 ++ h ++ 0#2 ++ o)
  | .sth d a b h o => some (14#6 ++ d ++ a ++ b ++ 1#3 ++ h ++ 0#2 ++ o)
  | .stw d a b h o => some (14#6 ++ d ++ a ++ b ++ 2#3 ++ h ++ 0#2 ++ o)
  | .std d a b h o => some (14#6 ++ d ++ a ++ b ++ 3#3 ++ h ++ 0#2 ++ o)
  | .amo d a b p w o => some (15#6 ++ d ++ a ++ b ++ p ++ w ++ o)
  | .b n p o => some (16#6 ++ n ++ p ++ o)
  | .bz a o => some (17#6 ++ a ++ 0#1 ++ o)
  | .bnz a o => some (17#6 ++ a ++ 1#1 ++ o)
  | .j o => some (18#6 ++ 0#5 ++ o)
  | .jal d o => some (19#6 ++ d ++ o)
  | .jr d a => some (20#6 ++ d ++ a ++ 0#16)
  | .loop d o => some (21#6 ++ d ++ 0#5 ++ o)
  | .csrr d c => some (22#6 ++ d ++ 0#9 ++ c)
  | .csrw d a c => some (22#6 ++ d ++ a ++ 4#4 ++ c)
  | .csrs d a c => some (22#6 ++ d ++ a ++ 8#4 ++ c)
  | .csrc d a c => some (22#6 ++ d ++ a ++ 12#4 ++ c)
  | .trap v => some (23#6 ++ 0#15 ++ v ++ 0#4)
  | .rth => some (23#6 ++ 1#26)
  | .exit => some (23#6 ++ 2#26)
  | .yield => some (23#6 ++ 3#26)
  | .wait a => some (23#6 ++ 0#5 ++ a ++ 4#16)
  | .noticedone => some (23#6 ++ 5#26)
  | .poison d a => some (23#6 ++ d ++ a ++ 6#16)
  | .marble a => some (23#6 ++ 0#5 ++ a ++ 7#16)
  | .shape d a b h => some (24#6 ++ d ++ a ++ b ++ 0#3 ++ h ++ 0#4)
  | .shapeq d a b => some (24#6 ++ d ++ a ++ b ++ 256#11)
  | .tbind d h => some (24#6 ++ d ++ 2#13 ++ h ++ 0#4)
  | .tfree d => some (24#6 ++ d ++ 768#21)
  | .tadd d a b m r => some (25#6 ++ d ++ a ++ b ++ m ++ 0#5 ++ r)
  | .tsub d a b m r => some (25#6 ++ d ++ a ++ b ++ m ++ 1#5 ++ r)
  | .tmul d a b m r => some (25#6 ++ d ++ a ++ b ++ m ++ 2#5 ++ r)
  | .tfma d a b m r => some (25#6 ++ d ++ a ++ b ++ m ++ 3#5 ++ r)
  | .tfms d a b m r => some (25#6 ++ d ++ a ++ b ++ m ++ 4#5 ++ r)
  | .tmin d a b m r => some (25#6 ++ d ++ a ++ b ++ m ++ 5#5 ++ r)
  | .tmax d a b m r => some (25#6 ++ d ++ a ++ b ++ m ++ 6#5 ++ r)
  | .tand d a b m r => some (25#6 ++ d ++ a ++ b ++ m ++ 7#5 ++ r)
  | .tor d a b m r => some (25#6 ++ d ++ a ++ b ++ m ++ 8#5 ++ r)
  | .txor d a b m r => some (25#6 ++ d ++ a ++ b ++ m ++ 9#5 ++ r)
  | .tshl d a b m r => some (25#6 ++ d ++ a ++ b ++ m ++ 10#5 ++ r)
  | .tshr d a b m r => some (25#6 ++ d ++ a ++ b ++ m ++ 11#5 ++ r)
  | .tcmp d a b m c => some (25#6 ++ 0#2 ++ d ++ a ++ b ++ m ++ 12#5 ++ c)
  | .tsel d a b s r => some (25#6 ++ d ++ a ++ b ++ s ++ 13#5 ++ r)
  | .tabs d a m r => some (26#6 ++ d ++ a ++ 0#5 ++ m ++ 0#5 ++ r)
  | .tneg d a m r => some (26#6 ++ d ++ a ++ 0#5 ++ m ++ 1#5 ++ r)
  | .trcp d a m r => some (26#6 ++ d ++ a ++ 0#5 ++ m ++ 2#5 ++ r)
  | .trsq d a m r => some (26#6 ++ d ++ a ++ 0#5 ++ m ++ 3#5 ++ r)
  | .texp d a m r => some (26#6 ++ d ++ a ++ 0#5 ++ m ++ 4#5 ++ r)
  | .tlog d a m r => some (26#6 ++ d ++ a ++ 0#5 ++ m ++ 5#5 ++ r)
  | .ttanh d a m r => some (26#6 ++ d ++ a ++ 0#5 ++ m ++ 6#5 ++ r)
  | .tcvt d a b m s r => some (27#6 ++ d ++ a ++ b ++ m ++ 0#2 ++ s ++ r ++ 0#2)
  | .tqnt d a b m s r => some (27#6 ++ d ++ a ++ b ++ m ++ 1#2 ++ s ++ r ++ 0#2)
  | .tdq d a b m s r => some (27#6 ++ d ++ a ++ b ++ m ++ 2#2 ++ s ++ r ++ 0#2)
  | .tmov d a m => some (28#6 ++ d ++ a ++ 0#5 ++ m ++ 0#8)
  | .tbcast d a m => some (28#6 ++ d ++ a ++ 0#5 ++ m ++ 8#8)
  | .tiota d a b m => some (28#6 ++ d ++ a ++ b ++ m ++ 16#8)
  | .ttrans d a m => some (28#6 ++ d ++ a ++ 0#5 ++ m ++ 24#8)
  | .tslide d a b m => some (28#6 ++ d ++ a ++ b ++ m ++ 32#8)
  | .tperm d a b m => some (28#6 ++ d ++ a ++ b ++ m ++ 40#8)
  | .tredr d a m x => some (29#6 ++ d ++ a ++ 0#5 ++ m ++ 0#4 ++ x ++ 0#1)
  | .tredc d a m x => some (29#6 ++ d ++ a ++ 0#5 ++ m ++ 1#4 ++ x ++ 0#1)
  | .tscan d a m x => some (29#6 ++ d ++ a ++ 0#5 ++ m ++ 2#4 ++ x ++ 0#1)
  | .tnz d a m => some (29#6 ++ d ++ a ++ 0#5 ++ m ++ 48#8)
  | .tcomp d a m => some (29#6 ++ d ++ a ++ 0#5 ++ m ++ 64#8)
  | .texpd d a m => some (29#6 ++ d ++ a ++ 0#5 ++ m ++ 80#8)
  | .tgets d a b => some (29#6 ++ d ++ a ++ b ++ 96#11)
  | .tclass d a m c => some (29#6 ++ 0#2 ++ d ++ a ++ 0#5 ++ m ++ 7#4 ++ c)
  | .tpmask d a m => some (29#6 ++ 0#2 ++ d ++ a ++ 0#5 ++ m ++ 128#8)
  | .mand d a b => some (30#6 ++ 0#2 ++ d ++ 0#2 ++ a ++ 0#2 ++ b ++ 0#11)
  | .mor d a b => some (30#6 ++ 0#2 ++ d ++ 0#2 ++ a ++ 0#2 ++ b ++ 8#11)
  | .mxor d a b => some (30#6 ++ 0#2 ++ d ++ 0#2 ++ a ++ 0#2 ++ b ++ 16#11)
  | .mnot d a => some (30#6 ++ 0#2 ++ d ++ 0#2 ++ a ++ 24#16)
  | .mpopc d a => some (30#6 ++ d ++ 0#2 ++ a ++ 32#16)
  | .mfirst d a => some (30#6 ++ d ++ 0#2 ++ a ++ 40#16)
  | .msets d a => some (30#6 ++ 0#2 ++ d ++ a ++ 48#16)
  | .mpsum d a => some (30#6 ++ d ++ 0#2 ++ a ++ 56#16)
  | .map d a b m l => some (31#6 ++ d ++ a ++ b ++ m ++ 0#3 ++ l)
  | .map3 d a b m l => some (31#6 ++ d ++ a ++ b ++ m ++ 2#3 ++ l)
  | .reduce d a m l => some (31#6 ++ d ++ a ++ 0#5 ++ m ++ 4#3 ++ l)
  | .scan d a m l => some (31#6 ++ d ++ a ++ 0#5 ++ m ++ 6#3 ++ l)
  | .tld d a m h o => some (32#6 ++ d ++ a ++ 0#5 ++ m ++ h ++ 0#2 ++ o)
  | .tlds d a b m h o => some (32#6 ++ d ++ a ++ b ++ m ++ h ++ 1#2 ++ o)
  | .tldb d a m h o => some (32#6 ++ d ++ a ++ 0#5 ++ m ++ h ++ 2#2 ++ o)
  | .tldg d a b m h o => some (33#6 ++ d ++ a ++ b ++ m ++ h ++ 0#2 ++ o)
  | .tldw d a b m h o => some (34#6 ++ d ++ a ++ b ++ m ++ h ++ 0#2 ++ o)
  | .tldc d a b m h o => some (35#6 ++ d ++ a ++ b ++ m ++ h ++ 0#2 ++ o)
  | .tldsh d a m => some (36#6 ++ d ++ a ++ 0#5 ++ m ++ 0#8)
  | .tldm d a => some (36#6 ++ 0#2 ++ d ++ a ++ 32#16)
  | .tst d a m h o => some (37#6 ++ d ++ a ++ 0#5 ++ m ++ h ++ 0#2 ++ o)
  | .tsts d a b m h o => some (37#6 ++ d ++ a ++ b ++ m ++ h ++ 1#2 ++ o)
  | .tsct d a b m h o => some (38#6 ++ d ++ a ++ b ++ m ++ h ++ 0#2 ++ o)
  | .tscta d a b m h o => some (38#6 ++ d ++ a ++ b ++ m ++ h ++ 1#2 ++ o)
  | .tatom d a b m p o => some (39#6 ++ d ++ a ++ b ++ m ++ p ++ o)
  | .tstsh d a m => some (40#6 ++ d ++ a ++ 0#5 ++ m ++ 0#8)
  | .mma d a b m t x => some (41#6 ++ d ++ a ++ b ++ m ++ t ++ x ++ 0#3)
  | .mmas d a b m t x => some (42#6 ++ d ++ a ++ b ++ m ++ t ++ x ++ 0#3)
  | .mmav r b p s x t => some (43#6 ++ r ++ b ++ p ++ 0#1 ++ s ++ x ++ t ++ 0#5)
  | .azero d => some (44#6 ++ d ++ 0#21)
  | .amov d a m r s => some (44#6 ++ d ++ a ++ 0#5 ++ m ++ 1#3 ++ r ++ s ++ 0#1)
  | .tamov d a m => some (44#6 ++ d ++ a ++ 0#5 ++ m ++ 64#8)
  | .ald d a b => some (44#6 ++ d ++ a ++ b ++ 96#11)
  | .ast d a b => some (44#6 ++ d ++ a ++ b ++ 128#11)
  | .copy a b c s => some (45#6 ++ a ++ b ++ c ++ 0#3 ++ s ++ 0#6)
  | .copyz a c s => some (45#6 ++ a ++ 0#5 ++ c ++ 1#3 ++ s ++ 0#6)
  | .copyg a b c s => some (46#6 ++ a ++ b ++ c ++ 0#3 ++ s ++ 0#6)
  | .copyx a b c s => some (46#6 ++ a ++ b ++ c ++ 1#3 ++ s ++ 0#6)
  | .cpin a b => some (47#6 ++ 0#5 ++ a ++ b ++ 0#11)
  | .cunpin a b => some (47#6 ++ 0#5 ++ a ++ b ++ 32#11)
  | .cevict a b => some (47#6 ++ 0#5 ++ a ++ b ++ 64#11)
  | .cpref a b => some (47#6 ++ 0#5 ++ a ++ b ++ 96#11)
  | .fence o => some (48#6 ++ 0#21 ++ o)
  | .sjoin => some (48#6 ++ 256#26)
  | .launch d a => some (49#6 ++ d ++ a ++ 0#16)
  | .send d a b => some (50#6 ++ d ++ a ++ b ++ 0#11)
  | .recv d => some (50#6 ++ d ++ 32#21)
  | .recvt d b p => some (50#6 ++ d ++ 0#5 ++ b ++ 8#8 ++ p)
  | .evwait d a b o => some (51#6 ++ d ++ a ++ b ++ 0#6 ++ o)
  | .qfill a b c s => some (52#6 ++ a ++ b ++ c ++ 0#1 ++ s ++ 0#8)
  | .qpop d a => some (52#6 ++ d ++ a ++ 128#16)
  | .gnode a b => some (53#6 ++ a ++ b ++ 0#16)
  | .glink a b => some (53#6 ++ a ++ b ++ 512#16)
  | .gsubmit a b s => some (53#6 ++ a ++ b ++ 2#7 ++ s ++ 0#6)
  | .tlbinvPage a b => some (54#6 ++ 0#5 ++ a ++ b ++ 0#11)
  | .tlbinvAsid b => some (54#6 ++ 0#10 ++ b ++ 1#11)
  | .tlbinvAll => some (54#6 ++ 2#26)
  | .cntr d n => some (55#6 ++ d ++ 0#9 ++ n)
  | .cntw a n => some (55#6 ++ 0#5 ++ a ++ 8#4 ++ n)
  | .blockPromotion .. | .blockWake .. | .waitExpiry .. | .recvtTimeout .. | .noticeEntry ..
  | .noticeWindowExpiry .. | .hardPreemption .. | .saveComplete .. | .placeGang
  | .launchCompletion .. | .producerCountWrite .. | .queueDescriptorWrite .. | .launchRecord ..
  | .preemptRecord .. | .restoreRecord .. | .abortRecord .. | .faultAnswer .. | .loadReissue ..
  | .loadArrival .. | .writePerformed .. | .transferArrival .. | .mmavStopPoint ..
  | .engineCompletion .. | .engineAbandon .. | .copyxSwitch .. | .fillEntry .. | .nodeStart ..
  | .nodeDone .. | .nodeAbandon .. | .graphCompletion .. | .energyCharge ..
  | .thermalCapChange .. | .thermalTrip .. | .softErrorReplay .. | .marbleMismatch ..
  | .drowsyEntry .. | .scrub .. | .hotPageWindow .. | .heldLineDrain ..
  | .pseudoChannelFailure .. | .spareCopyComplete .. | .selfRefreshEntry .. | .routerPowerDown ..
  | .rdS .. | .rdX .. | .upg .. | .wb .. | .ucRd .. | .ucWr .. | .atom .. | .inv .. | .recall ..
  | .fwdS .. | .reHome .. | .data .. | .ack .. | .invAck .. | .atomRsp .. | .replayRequest ..
  | .training .. | .laneFailure .. | .messageLost .. | .cxlCompletionTimeout ..
  | .hostCxlMemAccess .. | .hostSnoop .. | .birsp .. | .errlogWrite .. | .boot ..
  | .attestationRequest .. | .firmwareUpdate .. | .deviceReset | .flitCrcFailure ..
  | .faultQueueConsumerCountWrite .. | .candidateWaitExpiry .. | .yieldExpiry .. | .refresh ..
  | .managementRequest .. | .debuggerRead .. => none

end Sys2Proof
end

