-- ==== Sys2Proof/Config.lean ====
section
/-! DEFINITION. What one implementation fixes, and the values that the spec leaves open.

The free values have no body: nothing can be proved of them but what the using rule says.  The
counter they are applied to stands in the machine's state (`Dev.fresh`). -/
namespace Sys2Proof.Config

/-- Clocks that pass at one step of the model (R36: timing changes no result); log entry 2. -/
opaque stepClocks : Nat → Nat

/-- A free choice among several that the spec allows; log entry 4. -/
opaque freeChoice : Nat → Nat

/-- A free 64-bit value where the spec states no value; log entry 4. -/
opaque freeWord : Nat → Word

/-- SHA-512 of a byte string, 64 bytes (R393, R394: named by standard); log entry 9. -/
opaque sha512 : List Byte → List Byte

/-- Ed25519 verification: public key, message, signature (R393); log entry 9. -/
opaque ed25519Verify : List Byte → List Byte → List Byte → Bool

/-- Ed25519 signature made with the device's own key (R394); log entry 9. -/
opaque ed25519Sign : List Byte → List Byte

/-- The fused hash of a key slot (R393); log entry 9. -/
opaque fusedHash : Nat → List Byte

/-- The key slots that fuses revoke, one bit each (R393); log entry 9. -/
opaque revokedSlots : BitVec 4

/-- The fused rollback counter (R393, R394); log entry 9. -/
opaque rollback : Nat

/-- Compute cores of the device (R24). -/
def cores : Nat := 320

/-- Lanes of one core (R20, R21). -/
def lanes : Nat := 128

/-- Launch table entries (R321). -/
def launchEntries : Nat := 4096

/-- Resident blocks of one core at most (R30). -/
def blocksPerCore : Nat := 32

end Sys2Proof.Config
end

