-- ==== Sys2Proof/Machine/State.lean ====
section
/-! DEFINITION. The state of one Sloig 960: plain data, all of it (R9 to R431).

The block that issues stands in `Dev.blk`, the other resident blocks in `Dev.others`; `Dev.agenda`
says, as data, which agent moves next.  Memory and line metadata stand beside the device. -/
namespace Sys2Proof.Machine

/-- No step of this model ends in a fault: every trap, kill and refusal of the device is a next state
(R209, R210), so there is no constructor. -/
inductive Fault where
  deriving DecidableEq, Repr

/-- Why an instruction has no meaning. -/
inductive Refusal where
  /-- Raised by an arm of exec that has no meaning yet; safe, since nothing runs. -/
  | notModelled (mnemonic : String)
  deriving DecidableEq, Repr

/-! ## Memory -/

/-- Bytes by physical address (R227), strictly rising, none equal to the byte an unlisted address
reads as. -/
abbrev Memory := List Host.Cell

/-- The 16 metadata bits of one line (R244), by line number PA / 128, in the same canonical form. -/
abbrev Tags := List (Nat × BitVec 16)

/-! ## Tiles, masks, registers -/

/-- The type tags (R140). -/
inductive Tag where
  | none | fp64 | fp32 | bf16 | fp16 | e4m3 | e5m2 | e3m2 | e2m3 | e2m1
  | int4 | uint4 | int8 | uint8 | int16 | uint16 | int32 | uint32
  deriving DecidableEq, Repr

/-- An origin index and the merge flag (R95, R100). -/
structure Crumb where
  origin : BitVec 20
  merged : Bool
  deriving DecidableEq, Repr

/-- s0 to s31 (R117). -/
structure SReg where
  val : Word
  poison : Option Crumb
  deriving DecidableEq, Repr

/-- p0 to p7 (R120). -/
structure PReg where
  val : Bool
  poison : Option Crumb
  deriving DecidableEq, Repr

/-- m0 to m7: length, fill, the bits from bit 0 up, poison (R158). -/
structure MaskReg where
  n : Nat
  fill : Bool
  bits : Nat
  poison : Option Crumb
  deriving DecidableEq, Repr

/-- A shape record (R139). -/
structure ShapeRec where
  code : BitVec 5
  grant : Bool
  dead : Bool
  stale : Bool
  rowsM1 : BitVec 11
  cols : BitVec 16
  deriving DecidableEq, Repr

/-- One element: a pattern of the tag's width, or poison (R95 to R99). -/
inductive Elem where
  | bits (v : Nat)
  | poison (c : Crumb)
  deriving DecidableEq, Repr

/-- A tile version (R142, R144, R223): elements row-major over the rows and the kept rows, block
scales row by row. -/
structure Tile where
  empty : Bool
  tag : Tag
  rows : Nat
  cols : Nat
  elems : List Elem
  scales : List Nat
  kept : Nat
  valid : Nat
  dirty : Nat
  arrived : Nat
  progress : Nat
  deriving DecidableEq, Repr

/-- t0 to t31: the binding, the committed version, the version that SEND delivered, and the storage rows of one that is on
its way (R144, R337). -/
structure TileReg where
  bound : Option RecNo
  ver : Tile
  inbox : Option Tile
  coming : Nat
  deriving DecidableEq, Repr

/-- One tile store word: its bits and P (R249). -/
structure AccWord where
  bits : BitVec 32
  p : Bool
  deriving DecidableEq, Repr

/-! ## Control state of a block -/

/-- Privilege levels (R202). -/
inductive Level where
  | user | super | firm
  deriving DecidableEq, Repr

/-- PSTATE (R203). -/
structure Pstate where
  pl : Level
  intrap : Bool
  reissue : Bool
  marble : Bool
  notice : Bool
  compat : Bool
  deriving DecidableEq, Repr

/-- The control registers of a block (R205, R365). -/
structure Csr where
  srseed : Word
  mfmt : Word
  poisoncfg : Word
  bypassth : Word
  trapvec : Word
  noticepc : Word
  estart : Word
  trapcause : Word
  trappc : Word
  traptile : Word
  fltinfo : Word
  nretpc : Word
  caphead : Word
  deriving DecidableEq, Repr

/-- States of a resident or retired block (R37); CREATED and SAVED blocks stand in their launch. -/
inductive RunState where
  | ready | waiting | saving | retired
  deriving DecidableEq, Repr

/-- What a block in WAITING waits for (R38): a time, in CYCLE counts of its core; a tile, for RECVT with its
limit and predicate; a write to a word that was read as `old`; a stream-queue entry. -/
inductive Wait where
  | none
  | clocks (until_ : Nat)
  | tile (t : TileNo)
  | tileLimit (t : TileNo) (until_ : Nat) (p : PredReg)
  | word (pa old : Nat)
  | entry (q : Nat)
  deriving DecidableEq, Repr

/-- Who the block is (R31, R206, R348). -/
structure BlockId where
  key : BlockKey
  x : Nat
  y : Nat
  z : Nat
  gang : Nat
  member : Nat
  gangSize : Nat
  ctx : Nat
  asid : Nat
  fn : Nat
  root : Nat
  deriving DecidableEq, Repr

/-- Where the block stands (R35, R142, R143, R231): physical share in lanes, storage width B in bits,
row grant G, tile store grant, scratch bytes, and the header's share. -/
structure Place where
  core : Nat
  part : Nat
  lane : Nat
  slot : Nat
  share : Nat
  width : Nat
  rows : Nat
  tsBase : Nat
  tsRows : Nat
  scratch : Nat
  hdrShare : Nat
  deriving DecidableEq, Repr

/-- The loop-capture buffer (R134): the captured tile-side words with their addresses, the body's start
and the LOOP's address. -/
structure LoopBuf where
  words : List (Nat × Insn)
  start : Word
  last : Word
  deriving DecidableEq, Repr

/-- A fault batch on which a block waits (R121, R130, R196 to R198, R259): its number, whether a fetch
met it, the element and FLTINFO of the fault, the faulting address, and the address of the
instruction that waits. -/
structure BlockBatch where
  id : Nat
  fetch : Bool
  elem : Nat
  flt : Word
  va : Word
  pc : Word
  deriving DecidableEq, Repr

/-- A pre-emption request that the block has taken (R38, R220): its member area, the resume address, and whether the save
engine has begun (R223). -/
structure Preempt where
  area : Word
  resume : Word
  begun : Bool
  deriving DecidableEq, Repr

/-- A SEND whose transfer has begun (R337). -/
structure Transfer where
  dest : BlockKey
  tile : TileNo
  ver : Tile
  deriving DecidableEq, Repr

/-- An MMAV that met a translation fault and has not reached its stop point (R259): the complete lines'
count, the words that they leave, and the instruction's address. -/
structure MmavStop where
  rows : Nat
  words : List (Nat × AccWord)
  pc : Word
  deriving DecidableEq, Repr

/-- Where an entry of the crumb log says its poison arose (R360): kind, form and location, the syndrome,
the program counter, and whether an engine allocated it. -/
structure CrumbAt where
  kind : Nat
  form : Nat
  loc : Nat
  syn : Nat
  pc : Word
  engine : Bool
  key : BlockKey
  deriving DecidableEq, Repr

/-- What an update that adds makes of a NaN whose operands are none (R102): the canonical NaN; poison, of which its
instruction, the `id`-th, appends the entry; or poison of the entry that it has appended. -/
inductive GenNan where
  | off
  | log (id : Nat) (at_ : CrumbAt)
  | known (c : Crumb)
  deriving DecidableEq, Repr

/-- What a committed write does at its line's home (R267, R269, R278); `merge` puts the
bits of `val` that `mask` names into one byte (R274); `mark` is no write, but the place of an SJOIN (R297) or
of a release (R294), behind which nothing is performed early. -/
inductive PendKind where
  | bytes (bs : List Host.Cell)
  | merge (pa : Nat) (mask val : Byte)
  | add (pa : Nat) (tag : Tag) (v : Elem) (gen : GenNan)
  | mark (release : Bool)
  deriving DecidableEq, Repr

/-- A committed write that has not been performed (R267): its slice, line, kind, whether it carries poison, and
whether it bypasses L2 allocation at its home (R268). -/
structure Pend where
  slice : Nat
  line : Nat
  kind : PendKind
  poison : Bool
  bypass : Bool
  deriving DecidableEq, Repr

/-- The state of a stream queue (R321, R341, R343). -/
inductive QState where
  | idle | filling | faulted | abandoned | done
  deriving DecidableEq, Repr

/-- A stream queue (R321, R340 to R343), and the copy engine that fills it (R16, R47). `slots` holds the filled and
unpopped entries, oldest first. -/
structure StreamQueue where
  st : QState
  desc : Word
  src : Word
  count : Nat
  shape : Word
  stride : Word
  depth : Nat
  filled : Nat
  popped : Nat
  slots : List Tile
  row : Nat
  col : Nat
  va : Word
  cw : Nat
  cwVa : Word
  scope : Nat
  engine : Nat
  pc : Word
  batch : Option Nat
  crumbs : List (Nat × Crumb)
  deriving DecidableEq, Repr

/-- The member area that a block was last restored from (R223), with the offset and size of each tile's slot
in it. -/
structure SaveArea where
  base : Word
  slots : List (Nat × Nat × Nat)
  deriving DecidableEq, Repr

/-- Where the sequencer sends an instruction that has issued (R33): it executes it itself, or expands it into one of the
issue queues of the partition. -/
inductive IssueQueue where
  | sequencer | lane | matrix | copy
  deriving DecidableEq, Repr

/-- A resident block; `batch` is what its instruction waits on, but for a load or store that PSTATE.REISSUE is to issue
again: `again` is that one's address and `parked` its batch (R196, R197); `fencing` says that a FENCE or TLBINV waits at the
program counter (R306, R355); `lastIssue` is the clock of its last commit (R33); `flight` says that the instruction at the
program counter has issued and is not over: its history entry, and its entry of an issue queue (R143, R321). -/
structure Block where
  id : BlockId
  place : Place
  run : RunState
  wait : Wait
  ps : Pstate
  csr : Csr
  pc : Word
  s : Vector SReg 32
  p : Vector PReg 8
  m : Vector MaskReg 8
  h : Vector ShapeRec 16
  t : Vector TileReg 32
  scratch : Memory
  acc : List (Nat × AccWord)
  rp : Nat
  rpAddr : Word
  stop : Option MmavStop
  loop : Option LoopBuf
  batch : Option BlockBatch
  again : Option Word
  parked : Option BlockBatch
  fencing : Bool
  xfer : Option Transfer
  pend : List Pend
  queues : Vector StreamQueue 4
  area : Option SaveArea
  window : Option Nat
  preempt : Option Preempt
  recvtUntil : Option Nat
  lastIssue : Nat
  flight : Option IssueQueue
  promoted : Bool
  yieldUntil : Nat
  deriving DecidableEq, Repr

/-! ## Launches -/

/-- A kernel header (R325). -/
structure Header where
  entry : Word
  srseed : Word
  rows : Nat
  tsRows : Nat
  scratch : Nat
  share : Nat
  poison : Nat
  compat : Bool
  deriving DecidableEq, Repr

/-- A gang in memory, or on its way there (R334, R335): the members that are saved, its save area, whether the
record named every gang, the share a restore record asked for while it is a candidate, whether it is restored
before every other candidate (R347), since which clock it has been one, and whether it has waited 1,000,000 (R330). -/
structure SavedGang where
  gang : Nat
  members : List Nat
  area : Word
  whole : Bool
  want : Option Nat
  first : Bool
  since : Nat
  waited : Bool
  deriving DecidableEq, Repr

/-- A launch in the launch table (R321, R326, R332, R346); `done` is its done word, where one is named, and `since` the
clock of its acceptance (R330). -/
structure Launch where
  lid : Nat
  ctx : Nat
  fn : Nat
  cls : Nat
  budget : Nat
  eleft : Word
  eused : Word
  hdr : Header
  gangSize : Nat
  dimX : Nat
  dimY : Nat
  dimZ : Nat
  coresident : Bool
  notify : Bool
  done : Option Nat
  since : Nat
  nextGang : Nat
  skipped : List Nat
  saved : List SavedGang
  retired : Nat
  killed : Bool
  waited : Bool
  node : Option (Nat × Nat)
  deriving DecidableEq, Repr

/-- A control record that still acts or whose done word waits (R334): the gangs it acts on. -/
structure Control where
  kind : Nat
  lid : Nat
  gangs : List Nat
  done : Option Nat
  deriving DecidableEq, Repr

/-- A host launch queue as the launch unit holds it (R322, R323). -/
structure LaunchQueue where
  stopped : Bool
  reported : Bool
  seen : Nat
  deriving DecidableEq, Repr

/-- Launch unit and dispatcher (R321, R326, R330); `turn` is the queue that was served last (R323). -/
structure LaunchUnit where
  launches : List Launch
  nextLid : Nat
  queues : Vector LaunchQueue 16
  controls : List Control
  turn : Nat
  deriving DecidableEq, Repr

/-! ## Fault queues -/

/-- Who waits on a fault batch. -/
inductive BatchOwner where
  | block (k : BlockKey)
  | op (n : Nat)
  | graph (g : Nat)
  | fill (k : BlockKey) (q : Nat)
  deriving DecidableEq, Repr

/-- The answers of R344. -/
inductive Answer where
  | serviced | onePage | refused | unresolvable
  deriving DecidableEq, Repr

/-- An open fault batch (R345): the physical address of its record once written, the PC that the record gives (R344), and
its answer. -/
structure Batch where
  id : Nat
  owner : BatchOwner
  record : Option Nat
  pc : Word
  queueFn : Nat
  answer : Option Answer
  deriving DecidableEq, Repr

/-- A record that waits for a slot of its fault queue (R345): the function, the bytes from byte 0, and
the batch it announces. -/
structure HeldRec where
  fn : Nat
  body : List Byte
  batch : Option Nat
  deriving DecidableEq, Repr

/-- A fault queue as the device holds it (R344): the next sequence number and the answer count last
seen. -/
structure FaultQueue where
  fn : Nat
  seq : Nat
  seen : Nat
  deriving DecidableEq, Repr

/-- The record writer (R344, R345). -/
structure FaultUnit where
  queues : List FaultQueue
  held : List HeldRec
  batches : List Batch
  nextBatch : Nat
  msix : List (Nat × Nat)
  deriving DecidableEq, Repr

/-! ## Engines and graphs -/

/-- The phases of a COPYX (R286); from `switching` on the old homes stall what arrives for the page. -/
inductive MovePhase where
  | check | copying | switching | forwarding
  deriving DecidableEq, Repr

/-- What an engine operation does (R283 to R286, R361); `over` holds source bytes that a COPY with overlapping
ranges has overwritten, as they were. -/
inductive OpKind where
  | copy (dst src : Word) (len : Nat) (ov : List Host.Cell)
  | zero (dst : Word) (len : Nat)
  | gather (dst base list : Word) (z : Nat) (wide signed : Bool) (count : Nat)
  | move (va : Word) (entry oldPa : Nat) (oldPl : BitVec 32) (newPa : Nat) (newPl : BitVec 32)
      (size : Nat) (compressed : Bool) (phase : MovePhase) (recopy : List Nat)
  | launch (record result : Word) (compute : Bool) (lid : Option Nat)
  deriving DecidableEq, Repr

/-- An engine operation (R46, R47, R282): the issuing block, its progress in bytes or elements, its completion word, its
batch, its faulting address and the reason for which it is to be abandoned, the source lines that have a crumb-log entry,
with the crumb of each (R284), and the graph node it runs for. `engine` is 2 for a launch that a graph makes. -/
structure Op where
  num : Nat
  who : BlockId
  core : Nat
  engine : Nat
  kind : OpKind
  done : Nat
  cw : Nat
  cwVa : Word
  scope : Nat
  level : Level
  pc : Word
  batch : Option Nat
  onePage : Bool
  va : Word
  bad : Option Nat
  crumbs : List (Nat × Crumb)
  node : Option (Nat × Nat)
  deriving DecidableEq, Repr

/-- A node of a submitted graph as its walker sees it (R364): its address, its successors as the walker
validated them, whether it started, and whether it ended, and how. -/
structure NodeRun where
  va : Nat
  next : List Nat
  started : Bool
  ended : Bool
  bad : Bool
  deriving DecidableEq, Repr

/-- A graph at its walker (R363, R364). -/
structure Graph where
  num : Nat
  who : BlockId
  cluster : Nat
  nodes : List NodeRun
  scope : Nat
  cw : Nat
  cwVa : Word
  level : Level
  pc : Word
  abandoned : Bool
  batch : Option Nat
  deriving DecidableEq, Repr

/-- The forwarding entry of a COPYX (R286): old and new page base, and the size. -/
structure Forward where
  old : Nat
  new : Nat
  size : Nat
  deriving DecidableEq, Repr

/-- The engine operations: copies, graphs, the forwarding entries of moving pages, the fill operations of saved blocks,
and the completion words, with their launch, that take +1 and bit 63 for a fill that retirement stopped (R343). -/
structure Engines where
  ops : List Op
  graphs : List Graph
  fills : List (BlockKey × Nat × StreamQueue)
  forwards : List Forward
  owed : List (Nat × Nat)
  nextOp : Nat
  deriving DecidableEq, Repr

/-! ## Translation, cache, controllers -/

/-- Memory types (R350). -/
inductive MemType where
  | normal | wc | device | strong
  deriving DecidableEq, Repr

/-- A leaf entry as translation uses it (R350). -/
structure Leaf where
  base : Nat
  size : Nat
  pl : BitVec 32
  r : Bool
  w : Bool
  x : Bool
  u : Bool
  type : MemType
  idem : Bool
  hostShared : Bool
  compressed : Bool
  domain : Bool
  migrating : Bool
  entry : Nat
  deriving DecidableEq, Repr

/-- What holds translations in a core's unit (R353): the stream registers of the scalar path with fetch and of the lane
memory pipe, one a partition each, of the matrix streaming pipe, the copy engines, the save engine and the walker; and the
gather TLB. -/
inductive TlbUnit where
  | scalar (part : Nat)
  | lane (part : Nat)
  | matrix
  | copy (engine : Nat)
  | save
  | walker
  | gather
  deriving DecidableEq, Repr

/-- A translation that a part of a core's unit holds (R353). -/
structure TlbEntry where
  core : Nat
  unit : TlbUnit
  asid : Nat
  page : Nat
  leaf : Leaf
  deriving DecidableEq, Repr

/-- A table pointer that a core's walk cache holds (R353): level reached and index path. -/
structure WalkEntry where
  core : Nat
  asid : Nat
  level : Nat
  path : Nat
  table : Nat
  deriving DecidableEq, Repr

/-- A way of an L2 slice that a line takes (R233): the home's own entry or, where `away`, the requester-side copy in
the other die's slice (R246); valid, pinned, dirty, held for a dead channel or a starved page (R240, R242), inserted
at low priority, of a compressed page. Its data and metadata are those of `State.mem` and `State.tags`. -/
structure L2Line where
  line : Nat
  away : Bool
  valid : Bool
  pin : Bool
  dirty : Bool
  held : Bool
  low : Bool
  packed : Bool
  deriving DecidableEq, Repr

/-- Where an error that the cells hold lies (R215): a line, a tile store word, a 16-byte segment of a block's scratch
bytes or of a tile's rows (the elements of the version with a byte in it), a register file or control register of a
block, or the oldest entry of a block's queue in a slice; `inbox` is a version that SEND delivered, `slot` an entry of a
stream queue. -/
inductive UpsetAt where
  | line (n : Nat) (inL2 : Bool)
  | acc (core row col : Nat)
  | scratch (k : BlockKey) (seg : Nat)
  | tile (k : BlockKey) (t : TileNo) (first count : Nat)
  | inbox (k : BlockKey) (t : TileNo) (first count : Nat)
  | slot (k : BlockKey) (q i first count : Nat)
  | file (k : BlockKey)
  | entry (k : BlockKey) (slice : Nat)
  deriving DecidableEq, Repr

/-- An error that the cells hold (R195, R215, R251): uncorrectable or single-bit, and its syndrome. -/
structure Upset where
  loc : UpsetAt
  fatal : Bool
  syndrome : BitVec 32
  deriving DecidableEq, Repr

/-- One HBM4E stack (R240, R247): the live lists of both generations, spares left, the current
generation, dead channels, channels being copied to a spare, channels in self-refresh. -/
structure Stack where
  live0 : List Nat
  live1 : List Nat
  spares : Nat
  gen : Nat
  dead0 : List Nat
  dead1 : List Nat
  copying : List Nat
  asleep : List Nat
  deriving DecidableEq, Repr

/-- The controllers' and slices' own state. `spills` are the chunks that blocks of a full exception region took from
the reserve, by line (R242); `misses` the L2 misses of each 64 KiB page in the window of its die's tracker, and
`windows` the clocks at which the two windows began (R237); `rowUse` the clock at which a row that was drowsy woke, or the
debugger read it last (R217). -/
structure Uncore where
  tlb : List TlbEntry
  walks : List WalkEntry
  l2 : List L2Line
  spills : List (Nat × Nat)
  misses : List (Nat × Nat)
  windows : Vector Nat 2
  upsets : List Upset
  hbm : List (Nat × Stack)
  drowsy : List (Nat × Nat × Nat)
  rowUse : List ((Nat × Nat × Nat) × Nat)
  routersDown : List Nat
  starved : List Nat
  deriving DecidableEq, Repr

/-- What one core holds beside its blocks (R215, R333, R372, R376); `entriesOut` names the slice of each entry of a store
queue that is fenced (R215), `celsius` what its junction sensors showed when Praline last read them (R391; log entry 23). -/
structure Core where
  live : Bool
  cap : Nat
  fenced : BitVec 16
  entriesOut : List Nat
  celsius : Nat
  pmc : Vector Word 8
  pmsel : Vector Word 8
  deriving DecidableEq, Repr

/-! ## Link and host -/

/-- A Sloig Link message that the device sends (R384, R386): `src` is the header's source ID, `extra` its bits 127:85;
with the index that chooses its port (R385), and since which clock it has had no live route (R388). -/
structure Msg where
  op : Nat
  src : Nat
  dest : Nat
  tag : Nat
  line : Nat
  poison : Bool
  data : List Byte
  mask : Nat
  extra : Nat
  index : Nat
  since : Option Nat
  deriving DecidableEq, Repr

/-- One of the 24 scale-up ports (R383, R387 to R389): live lanes, version (0 down), partner, the next sequence
number, the number that the partner acknowledged last, the replay buffer, oldest first, and how many replay
requests the port has sent; `training` is the state that entry 0x0007 shows until firmware has reported a training. -/
structure Port where
  lanes : Nat
  version : Nat
  partner : Nat
  partnerPort : Nat
  training : Bool
  seq : Nat
  acked : Nat
  replay : List Msg
  asked : Nat
  deriving DecidableEq, Repr

/-- What a request sent to a peer is for (R386). -/
inductive ReqKind where
  | read | write | atomic
  | recall | inv | reHome
  deriving DecidableEq, Repr

/-- A request that the device has sent (R386): its tag, kind, the peer, the line, the block it belongs to
and the slice it travelled, the element whose instruction waits for the answer, what a merge over the link expects
the word to hold, and the answer once it is there. -/
structure Req where
  tag : Nat
  kind : ReqKind
  peer : Nat
  line : Nat
  by_ : Option BlockKey
  slice : Nat
  elem : Option Nat
  expect : Option Nat
  answer : Option (List Byte × Bool)
  deriving DecidableEq, Repr

/-- What a pending transaction of a line serves (R245, R386); `giveUp` is no home's, but that of a holder which
must first invalidate the copies that it forwarded. -/
inductive TxnKind where
  | rdS (p tag : Nat)
  | rdX (p tag : Nat)
  | wb (p tag : Nat) (data : List Byte) (poisoned : Bool)
  | ucRd (p tag : Nat)
  | ucWr (p tag mask : Nat) (data : List Byte) (poisoned : Bool)
  | atom (p tag op : Nat) (wide : Bool) (offset : Nat) (operand expected : Word) (poisoned : Bool)
  | hostRead
  | hostWrite (bytes : List Host.Cell)
  | giveUp (home tag : Nat) (pull : Bool)
  | local_
  deriving DecidableEq, Repr

/-- A pending transaction of one line (R245): the tag of its messages, the peers whose acknowledgement is missing,
and the holder whose write-back the home awaits. -/
structure Txn where
  line : Nat
  kind : TxnKind
  tag : Nat
  awaiting : List Nat
  wbFrom : Option Nat
  deriving DecidableEq, Repr

/-- A line of a peer's memory that this device holds (R386, R303): E, M or O, S. -/
structure HeldLine where
  line : Nat
  home : Nat
  modified : Bool
  owner : Bool
  data : List Byte
  poison : Bool
  forwarded : List Nat
  deriving DecidableEq, Repr

/-- The link as this device sees it: the ports, the messages sent so far, oldest first, those that wait for a live
port, requests out, pending and queued transactions, lines held of peers, lines of the host window for which BIRsp has
come and those for which BISnpInv waits for it (R380), lines whose CXL request was declared lost. -/
structure Link where
  ports : Vector Port 24
  outbox : List Msg
  unsent : List Msg
  reqs : List Req
  txns : List Txn
  queued : List Txn
  held : List HeldLine
  dropped : List Nat
  snoops : List Nat
  lost : List Nat
  nextTag : Nat
  deriving DecidableEq, Repr

/-! ## Firmware and service -/

/-- An HDM decoder (R382): a range of region-1 offsets, and the port of its expander. -/
structure Decoder where
  base : Nat
  len : Nat
  port : Nat
  deriving DecidableEq, Repr

/-- What firmware has told the device and the capability list (R365, R366, R389), which stands at `capList`; `slices` is the
bitmap of live L2 slices, `width`, `rate` and `vfs` are what the host port trained to and enabled (R379), and `changed` is the
clock of the first change that the list does not show yet. -/
structure Firmware where
  queueTable : Nat
  ctxTable : Nat
  carveTable : Nat
  mirror : Nat
  routing : Nat
  deviceId : Nat
  domain : Nat
  degraded : Bool
  missLimit : Nat
  windowBase : Nat
  windowLen : Nat
  expanders : List Decoder
  generation : Nat
  capList : Nat
  slices : Nat
  width : Nat
  rate : Nat
  vfs : Nat
  changed : Option Nat
  deriving DecidableEq, Repr

/-- How far boot has come (R393). -/
inductive BootStage where
  | standby | recovery (reason : Nat) | running | tripped
  deriving DecidableEq, Repr

/-- Boot, attestation, update and debug state (R217, R392 to R395), with what a read of Praline or of the debugger gave
last, and its status GATED; the fuses are constants (Config). -/
structure Service where
  stage : BootStage
  stages : List (List Byte)
  staged : Option Image
  report : Option (List Byte)
  highAlt : Bool
  read : Option Word
  gated : Bool
  deriving DecidableEq, Repr

/-- ERRLOG and its writer (R219). -/
structure ErrLog where
  reg : Word
  next : Nat
  seq : Nat
  deriving DecidableEq, Repr

/-- What moves next: an event of the device, or the named block issues. -/
inductive Todo where
  | event (i : Instr)
  | issue (k : BlockKey)
  deriving DecidableEq, Repr

/-- A CNTW of this clock (R378): the core of the counter, or 320 for one of the device, its number, the core that wrote it
and that block's age. -/
structure CounterWrite where
  core : Nat
  num : Nat
  by_ : Nat
  age : Nat
  deriving DecidableEq, Repr

/-- A write of one of the device's own units that waits for its lines (R240, R380), and an MSI-X message behind it (R344,
R381). -/
inductive OwnItem where
  | bytes (pa : Nat) (bs : List Byte)
  | msix (fn vector : Nat)
  deriving DecidableEq, Repr

/-- Where the energy estimators stand (R374): the window of 1,024 clocks whose charges are applied, the core that charged
last, and the launches that it has charged. -/
structure Estimator where
  window : Nat
  core : Nat
  lids : List Nat
  deriving DecidableEq, Repr

/-- The device beside its memory; `ownQueue` holds its own units' writes that wait, oldest first; `issues` lists the core
and partition of each instruction issued in this clock (R33), `written` its CNTWs (R378), `late` says that an access of
this clock came from the other die, a peer or a scrub, so that what follows stands in a later one (R245, R248), `counted`
the events that the last instruction of a block has counted (R376); `logInit` is the initial LOGBASE that each context's
descriptor had at its last placement (R348). -/
structure Dev where
  blk : Block
  others : List Block
  agenda : List Todo
  clock : Nat
  issues : List (Nat × Nat)
  written : List CounterWrite
  late : Bool
  counted : List (BlockKey × Nat × Nat)
  ownQueue : List OwnItem
  est : Estimator
  fresh : Nat
  lu : LaunchUnit
  fq : FaultUnit
  eng : Engines
  unc : Uncore
  cores : List (Nat × Core)
  link : Link
  fw : Firmware
  svc : Service
  err : ErrLog
  scrubcfg : Word
  logbase : List (Nat × Word)
  logInit : List (Nat × Word)
  ctrs : List (Nat × Word)
  deriving DecidableEq, Repr

/-- The machine. -/
structure State where
  mem : Memory
  tags : Tags
  dev : Dev
  deriving DecidableEq, Repr

/-! ## Reset -/

def SReg.reset : SReg := { val := 0, poison := none }
def PReg.reset : PReg := { val := false, poison := none }
def MaskReg.reset : MaskReg := { n := 0, fill := false, bits := 0, poison := none }
def ShapeRec.reset : ShapeRec :=
  { code := 0, grant := false, dead := false, stale := false, rowsM1 := 0, cols := 0 }

/-- The empty tile (R145). -/
def Tile.none : Tile :=
  { empty := true, tag := .none, rows := 0, cols := 0, elems := [], scales := [], kept := 0,
    valid := 0, dirty := 2 ^ 192 - 1, arrived := 0, progress := 0 }

def TileReg.reset : TileReg := { bound := .none, ver := Tile.none, inbox := .none, coming := 0 }

def Pstate.reset : Pstate :=
  { pl := .user, intrap := false, reissue := false, marble := false, notice := false,
    compat := false }

/-- The control registers at block creation (R205), before the header's and the context's values. -/
def Csr.reset : Csr :=
  { srseed := 0, mfmt := 0, poisoncfg := 0, bypassth := 0x100000, trapvec := 0, noticepc := 0,
    estart := 0, trapcause := 0, trappc := 0, traptile := 0, fltinfo := 0, nretpc := 0,
    caphead := 0 }

def BlockId.none : BlockId :=
  { key := { lid := 0, lin := 0 }, x := 0, y := 0, z := 0, gang := 0, member := 0, gangSize := 1,
    ctx := 0, asid := 0, fn := 0, root := 0 }

def Place.none : Place :=
  { core := 0, part := 0, lane := 0, slot := 0, share := 4, width := 4096, rows := 0, tsBase := 0,
    tsRows := 0, scratch := 0, hdrShare := 4 }

def StreamQueue.reset : StreamQueue :=
  { st := .idle, desc := 0, src := 0, count := 0, shape := 0, stride := 0, depth := 0, filled := 0,
    popped := 0, slots := [], row := 0, col := 0, va := 0, cw := 0, cwVa := 0, scope := 0, engine := 0,
    pc := 0, batch := .none, crumbs := [] }

/-- A block at creation (R117, R120, R138, R144, R158, R203, R205, R228, R249), not resident. -/
def Block.none : Block :=
  { id := BlockId.none, place := Place.none, run := .retired, wait := .none, ps := Pstate.reset,
    csr := Csr.reset, pc := 0,
    s := Vector.replicate 32 SReg.reset,
    p := (Vector.replicate 8 PReg.reset).set 0 { val := true, poison := .none },
    m := (Vector.replicate 8 MaskReg.reset).set 0
      { n := 0, fill := true, bits := 0, poison := .none },
    h := Vector.replicate 16 ShapeRec.reset,
    t := Vector.replicate 32 TileReg.reset,
    scratch := [], acc := [], rp := 0, rpAddr := 0, stop := .none, loop := .none, batch := .none,
    again := .none, parked := .none, fencing := false, xfer := .none, pend := [],
    queues := Vector.replicate 4 StreamQueue.reset, area := .none, window := .none,
    preempt := .none, recvtUntil := .none, lastIssue := 0, flight := .none, promoted := false,
    yieldUntil := 0 }

def Stack.reset : Stack :=
  { live0 := List.range 61, live1 := List.range 61, spares := 3, gen := 0, dead0 := [], dead1 := [],
    copying := [], asleep := [] }

def Core.reset : Core :=
  { live := true, cap := 128, fenced := 0, entriesOut := [], celsius := 0, pmc := Vector.replicate 8 0,
    pmsel := Vector.replicate 8 0 }

def Port.reset : Port :=
  { lanes := 0, version := 0, partner := 0, partnerPort := 0, training := false, seq := 0, acked := 0, replay := [], asked := 0 }

/-- The device right after reset: no launch, no block, the counters of R372 to R376 zero, SCRUBCFG at
its reset fields (R218), the ports down; firmware's addresses as log entry 3 says. -/
def Dev.reset : Dev :=
  { blk := Block.none, others := [], agenda := [], clock := 0, issues := [], written := [], late := false, counted := [],
    ownQueue := [], est := { window := 0, core := 0, lids := [] }, fresh := 0,
    lu := { launches := [], nextLid := 1,
            queues := Vector.replicate 16 { stopped := false, reported := false, seen := 0 },
            controls := [], turn := 15 },
    fq := { queues := [], held := [], batches := [], nextBatch := 0, msix := [] },
    eng := { ops := [], graphs := [], fills := [], forwards := [], owed := [], nextOp := 0 },
    unc := { tlb := [], walks := [], l2 := [], spills := [], misses := [], windows := Vector.replicate 2 0,
             upsets := [], hbm := [], drowsy := [], rowUse := [], routersDown := [], starved := [] },
    cores := [],
    link := { ports := Vector.replicate 24 Port.reset, outbox := [], unsent := [], reqs := [], txns := [],
              queued := [], held := [], dropped := [], snoops := [], lost := [], nextTag := 0 },
    fw := { queueTable := 0, ctxTable := 0, carveTable := 0, mirror := 0, routing := 0,
            deviceId := 0, domain := 0, degraded := false, missLimit := 0, windowBase := 0,
            windowLen := 0, expanders := [], generation := 0, capList := 0, slices := 2 ^ 256 - 1, width := 0, rate := 0,
            vfs := 0, changed := none },
    svc := { stage := .standby, stages := [], staged := none, report := none, highAlt := false, read := none,
             gated := false },
    err := { reg := 0, next := 0, seq := 0 },
    scrubcfg := 0x1E0C0F1010, logbase := [], logInit := [], ctrs := [] }

/-- The machine right after reset. -/
def State.reset : State := { mem := [], tags := [], dev := Dev.reset }

end Sys2Proof.Machine
end

