-- ==== Sys2Proof/Machine/Flags.lean ====
section
/-! DEFINITION. Poison, its merge flag, and the compare conditions (R65, R100, R118, R120, R127). -/
namespace Sys2Proof.Machine

/-- pmerge of two poison values (R100): the lower origin; the merge flag also where origins differ. -/
def Crumb.merge (x y : Crumb) : Crumb :=
  { origin := if x.origin.toNat ≤ y.origin.toNat then x.origin else y.origin,
    merged := x.merged || y.merged || x.origin != y.origin }

/-- pmerge over operands of which either may be plain (R100). -/
def mergePoison (x y : Option Crumb) : Option Crumb :=
  match x, y with
  | none, y => y
  | x, none => x
  | some a, some b => some (a.merge b)

/-- A plain scalar. -/
def SReg.plain (v : Word) : SReg := { val := v, poison := none }

/-- A poisoned scalar holds zero in its value bits (R118). -/
def SReg.bad (c : Crumb) : SReg := { val := 0, poison := some c }

/-- A result of operands whose merged poison is `c` (R118). -/
def SReg.result (c : Option Crumb) (v : Word) : SReg :=
  match c with
  | some c => SReg.bad c
  | none => SReg.plain v

/-- A plain predicate. -/
def PReg.plain (v : Bool) : PReg := { val := v, poison := none }

/-- A predicate result; a poisoned predicate holds false (R120). -/
def PReg.result (c : Option Crumb) (v : Bool) : PReg :=
  match c with
  | some c => { val := false, poison := some c }
  | none => PReg.plain v

/-- The conditions of CMP and CMPI (R65, R127). -/
def condition (c : Nat) (a b : Word) : Bool :=
  match c with
  | 0 => a == b
  | 1 => a != b
  | 2 => a.slt b
  | 3 => !(a.slt b)
  | 4 => a.ult b
  | _ => !(a.ult b)

end Sys2Proof.Machine
end

