-- ==== Sys2Proof/Machine/Memory.lean ====
section
/-! DEFINITION. Bytes and line metadata by physical address, and the working copy of one step.

A step reads memory as it stood, with the bytes it has written itself in front; what it wrote is
applied in one place when the step ends (`State.settle`, Machine/Ops.lean), so that every step keeps
the canonical form. -/
namespace Sys2Proof.Machine

/-! ## Sorted cells -/

/-- The value at `x` of a sorted list whose unlisted places hold `d`. -/
def cellAt {α : Type} (d : α) (m : List (Nat × α)) (x : Nat) : α :=
  match m with
  | [] => d
  | (a, v) :: r => if a = x then v else cellAt d r x

/-- Puts `v` at `x`; a place that holds `d` is not listed. -/
def cellPut {α : Type} [DecidableEq α] (d : α) (m : List (Nat × α)) (x : Nat) (v : α) :
    List (Nat × α) :=
  match m with
  | [] => if v = d then [] else [(x, v)]
  | (a, u) :: r =>
    if v = d then (if a = x then cellPut d r x v else (a, u) :: cellPut d r x v)
    else if x < a then (x, v) :: (a, u) :: r
    else if x = a then (x, v) :: r
    else (a, u) :: cellPut d r x v

/-- Puts a journal, newest first. -/
def cellPutAll {α : Type} [DecidableEq α] (d : α) (m : List (Nat × α)) (j : List (Nat × α)) :
    List (Nat × α) :=
  match j with
  | [] => m
  | (x, v) :: r => cellPut d (cellPutAll d m r) x v

/-- The canonical form: places strictly rising, none holding `d`. -/
def cellsWf {α : Type} [DecidableEq α] (d : α) (m : List (Nat × α)) : Bool :=
  match m with
  | [] => true
  | (a, v) :: r =>
    decide (v ≠ d) && (match r with | [] => true | (b, _) :: _ => decide (a < b)) && cellsWf d r

/-- The newest entry of a journal at `x`. -/
def journalAt {α : Type} (j : List (Nat × α)) (x : Nat) : Option α :=
  match j with
  | [] => none
  | (a, v) :: r => if a = x then some v else journalAt r x

/-- What a byte that nothing has written reads as; log entry 1. -/
def Memory.blank : Byte := 0

/-- The byte at a physical address. -/
def Memory.read (m : Memory) (pa : Nat) : Byte := cellAt Memory.blank m pa

/-- Writes one byte. -/
def Memory.write (m : Memory) (pa : Nat) (v : Byte) : Memory := cellPut Memory.blank m pa v

/-- Writes a journal of bytes, newest first. -/
def Memory.writeAll (m : Memory) (j : List Host.Cell) : Memory := cellPutAll Memory.blank m j

/-- The canonical form of memory. -/
def Memory.wf (m : Memory) : Bool := cellsWf Memory.blank m

/-- The metadata of a line: I, party 0, no copies, no poison where nothing is listed (R244). -/
def Tags.read (t : Tags) (line : Nat) : BitVec 16 := cellAt 0 t line

def Tags.writeAll (t : Tags) (j : List (Nat × BitVec 16)) : Tags := cellPutAll 0 t j

def Tags.wf (t : Tags) : Bool := cellsWf 0 t

/-! ## The working copy of a step -/

/-- Memory and metadata as the step found them, what the step has written (newest first), and the
device as the step leaves it. -/
structure Work where
  mem : Memory
  tags : Tags
  jnl : List Host.Cell
  tjnl : List (Nat × BitVec 16)
  dev : Dev
  deriving DecidableEq, Repr

/-- The trap causes (R209). -/
inductive Cause where
  | illegal | priv | tileUnbound | typeState | pcAlign | fetchFault | addrAlign | access | pageFault
  | frameExhausted | addxOverflow | poisonAddr | poisonBranch | poisonStore | poisonShape | poisonCtrl
  | tileSpace | shapeDesc | shapeStale | shapeMismatch | tileIndex | laneLimit | accRange | tmapInvalid
  | scratchRange | compStream | maskImage | sysState | trap | doubleTrap | hwError | abort | gangIndex
  | queueInvalid | graphInvalid | sparseMeta | engineDesc | saveFault
  deriving DecidableEq, Repr

/-- Why an instruction does not commit in this step: a trap with the lowest element index and, where
the home chapter gives one, FLTINFO (R210); a stay at its address with the block READY; a move to
WAITING (R38); the completion under m7 of R196, whose effects stand in the working copy already. -/
inductive Stop where
  | trap (c : Cause) (code : Nat) (elem : Nat) (flt : Option Word)
  | stay
  | wait (w : Wait)
  | partial_
  deriving DecidableEq, Repr

/-- What a meaning computes: it reads and changes the working copy and may stop. -/
abbrev M (α : Type) := EStateM Stop Work α

/-- The working copy at the start of a step. -/
def Work.start (s : State) : Work :=
  { mem := s.mem, tags := s.tags, jnl := [], tjnl := [], dev := s.dev }

/-- The state after a step: what was written is applied in the one place. -/
def Work.settle (w : Work) (s : State) : State :=
  { mem := s.mem.writeAll w.jnl, tags := s.tags.writeAll w.tjnl, dev := w.dev }

/-- The byte at a physical address as this step sees it. -/
def Work.byte (w : Work) (pa : Nat) : Byte := (journalAt w.jnl pa).getD (w.mem.read pa)

def Work.putByte (w : Work) (pa : Nat) (v : Byte) : Work := { w with jnl := (pa, v) :: w.jnl }

/-- `n` bytes from a physical address. -/
def Work.bytes (w : Work) (pa : Nat) (n : Nat) : List Byte :=
  match n with
  | 0 => []
  | n + 1 => w.byte pa :: w.bytes (pa + 1) n

/-- Little-endian value of bytes (R5). -/
def leNat (bs : List Byte) : Nat :=
  match bs with
  | [] => 0
  | b :: r => b.toNat + 256 * leNat r

/-- `n` little-endian bytes of a number (R5). -/
def natLe (n : Nat) (v : Nat) : List Byte :=
  match n with
  | 0 => []
  | n + 1 => BitVec.ofNat 8 v :: natLe n (v / 256)

/-- The `n`-byte little-endian value at a physical address. -/
def Work.le (w : Work) (pa n : Nat) : Nat := leNat (w.bytes pa n)

def Work.putBytes (w : Work) (pa : Nat) (bs : List Byte) : Work :=
  match bs with
  | [] => w
  | b :: r => (w.putByte pa b).putBytes (pa + 1) r

def Work.putLe (w : Work) (pa n v : Nat) : Work := w.putBytes pa (natLe n v)

/-- The metadata of a line as this step sees it. -/
def Work.meta (w : Work) (line : Nat) : BitVec 16 := (journalAt w.tjnl line).getD (w.tags.read line)

def Work.putMeta (w : Work) (line : Nat) (v : BitVec 16) : Work :=
  { w with tjnl := (line, v) :: w.tjnl }

/-- The line's poison bit (R244), which a state of 6 or 7 reads as set (R245). -/
def Work.linePoison (w : Work) (line : Nat) : Bool :=
  (w.meta line).getLsbD 15 || 6 ≤ ((w.meta line).extractLsb' 0 3).toNat

def Work.setPoison (w : Work) (line : Nat) (b : Bool) : Work :=
  let m := w.meta line
  w.putMeta line (if b then m ||| 0x8000#16 else m &&& 0x7FFF#16)

/-- The line number of a physical address: lines are 128 bytes (R232). -/
def lineOf (pa : Nat) : Nat := pa / 128

/-- The region PA[63:60] (R227). -/
def regionOf (pa : Nat) : Nat := pa / 2 ^ 60

/-! ## Reading and changing the working copy -/

def stopWith {α : Type} (e : Stop) : M α := throw e

/-- Raises a trap whose TRAPTILE is 0 and whose FLTINFO is left as it was. -/
def raise {α : Type} (c : Cause) : M α := throw (.trap c 0 0 none)

/-- Raises a trap that names the lowest element index. -/
def raiseAt {α : Type} (c : Cause) (elem : Nat) : M α := throw (.trap c 0 elem none)

/-- Raises `c` where the condition holds. -/
def raiseIf (b : Bool) (c : Cause) : M Unit := if b then raise c else pure ()

def getDev : M Dev := do return (← get).dev
def modifyDev (f : Dev → Dev) : M Unit := modify fun w => { w with dev := f w.dev }
def getBlk : M Block := do return (← get).dev.blk
def modifyBlk (f : Block → Block) : M Unit := modifyDev fun d => { d with blk := f d.blk }
def setBlk (b : Block) : M Unit := modifyBlk fun _ => b

/-- A fresh number for one free value (`Dev.fresh`). -/
def nextFresh : M Nat := do
  let n := (← getDev).fresh
  modifyDev fun d => { d with fresh := n + 1 }
  return n

/-- A free word where the spec states no value; log entry 4. -/
def freeWord : M Word := do return Config.freeWord (← nextFresh)

def readLe (pa n : Nat) : M Nat := do return (← get).le pa n
def readBytes (pa n : Nat) : M (List Byte) := do return (← get).bytes pa n
def writeLe (pa n v : Nat) : M Unit := modify fun w => w.putLe pa n v
def writeBytes (pa : Nat) (bs : List Byte) : M Unit := modify fun w => w.putBytes pa bs

end Sys2Proof.Machine
end

