-- ==== Sys2Proof/Machine/Placement.lean ====
section
/-! DEFINITION. HBM4E placement, stripe spaces, the carve table and home slices, what slices know of a line, and the
writes of the device's own units (R227, R232, R238 to R241, R246, R286, R352). -/
namespace Sys2Proof.Machine

/-- A stack; one not listed is as at reset. -/
def Dev.stack (d : Dev) (n : Nat) : Stack := cellAt Stack.reset d.unc.hbm n

def Dev.setStack (d : Dev) (n : Nat) (s : Stack) : Dev :=
  { d with unc := { d.unc with hbm := cellPut Stack.reset d.unc.hbm n s } }

/-- A stack's live list in a generation (R240). -/
def Stack.live (s : Stack) (gen : Nat) : List Nat := if gen = 0 then s.live0 else s.live1

def Stack.dead (s : Stack) (gen : Nat) : List Nat := if gen = 0 then s.dead0 else s.dead1

/-- The fields of a placement word (R238). -/
def plClass (pl : BitVec 32) : Nat := (pl.extractLsb' 0 3).toNat
def plSet (pl : BitVec 32) : Nat := (pl.extractLsb' 3 5).toNat
def plBank (pl : BitVec 32) : Nat := (pl.extractLsb' 8 4).toNat
def plGen (pl : BitVec 32) : Nat := (pl.extractLsb' 12 1).toNat

/-- Sets of each class (R238). -/
def classSets (cls : Nat) : Nat :=
  match cls with
  | 0 => 24
  | 1 => 12
  | 2 => 6
  | 3 => 2
  | _ => 1

/-- The placement word passes R238. -/
def placementOk (pl : BitVec 32) : Bool :=
  plClass pl ≤ 5 && plSet pl < classSets (plClass pl) && pl.extractLsb' 13 19 == 0

/-- The stripe space of a class and set (R238). -/
def spaceOf (cls set : Nat) : Nat :=
  match cls with
  | 0 => set
  | 1 => 24 + set
  | 2 => 36 + set
  | 3 => 42 + set
  | _ => 44

/-- Class and set of a stripe space (R238). -/
def spaceClass (s : Nat) : Nat × Nat :=
  if s < 24 then (0, s)
  else if s < 36 then (1, s - 24)
  else if s < 42 then (2, s - 36)
  else if s < 44 then (3, s - 42)
  else (4, 0)

/-- The stacks of a class and set, ascending (R238). -/
def setStacks (cls set : Nat) : List Nat :=
  match cls with
  | 0 => [set]
  | 1 => [2 * set, 2 * set + 1]
  | 2 => (List.range 4).map (4 * set + ·)
  | 3 => (List.range 12).map (12 * set + ·)
  | _ => List.range 24

/-- Trial division up to the square root. -/
def noDivisor (n : Nat) (fuel d : Nat) : Bool :=
  match fuel with
  | 0 => true
  | f + 1 => if n < d * d then true else n % d != 0 && noDivisor n f (d + 1)

def isPrime (n : Nat) : Bool := 2 ≤ n && noDivisor n n 2

/-- The largest prime that is at most `n`; 0 where there is none (R239). -/
def largestPrime (n : Nat) : Nat :=
  match n with
  | 0 => 0
  | k + 1 => if isPrime (k + 1) then k + 1 else largestPrime k

/-- Round `r` of the round-robin of R239. -/
def channelRound (d : Dev) (hbm : List Nat) (gen r : Nat) : List (Nat × Nat) :=
  hbm.filterMap fun s => ((d.stack s).live gen)[r]?.map fun c => (s, c)

/-- The channel list of a space: pairs of stack and pseudo-channel (R239). -/
def channelList (d : Dev) (cls set gen : Nat) : List (Nat × Nat) :=
  let hbm := setStacks cls set
  let total := (hbm.map fun s => ((d.stack s).live gen).length).sum
  ((List.range 64).flatMap (channelRound d hbm gen)).take (largestPrime total)

/-- The carve entry of a space and generation: base and length (R352). -/
def Work.carve (w : Work) (space gen : Nat) : Nat × Nat :=
  let pa := w.dev.fw.carveTable + 16 * (2 * space + gen)
  (w.le pa 8, w.le (pa + 8) 8)

/-- Where a byte of HBM4E lies (R239): stack, pseudo-channel, bank, position. -/
structure Located where
  stack : Nat
  channel : Nat
  bank : Nat
  pos : Nat
  deriving DecidableEq, Repr

/-- locate of R239. -/
def Work.locate (w : Work) (pl : BitVec 32) (o : Nat) : Located :=
  let l := channelList w.dev (plClass pl) (plSet pl) (plGen pl)
  let p := l.length
  let n := o / 256
  let (s, c) := l.getD (n % p) (0, 0)
  let row := n / p
  let base := (w.carve (spaceOf (plClass pl) (plSet pl)) (plGen pl)).1
  { stack := s, channel := c, bank := (row + plBank pl) % 16,
    pos := base + 256 * (row / 16) + o % 256 }

/-- An offset is backed by the carve table (R352). -/
def Work.backed (w : Work) (pl : BitVec 32) (o : Nat) : Bool :=
  let p := (channelList w.dev (plClass pl) (plSet pl) (plGen pl)).length
  p != 0 && 256 * (o / 256 / p / 16) + 255 <
    (w.carve (spaceOf (plClass pl) (plSet pl)) (plGen pl)).2

/-- The region-0 address of an offset under a placement word (R227). -/
def hbmPa (pl : BitVec 32) (o : Nat) : Nat :=
  o % 2 ^ 42 + 2 ^ 42 * spaceOf (plClass pl) (plSet pl) + 2 ^ 48 * plGen pl

/-- The placement word, bank offset aside, of a region-0 address (R227, R238). -/
def plOfPa (pa : Nat) : BitVec 32 :=
  let (c, s) := spaceClass (pa / 2 ^ 42 % 64)
  BitVec.ofNat 32 (c + 8 * s + 4096 * (pa / 2 ^ 48 % 2))

/-- The die of a line's home (R232): the die of its set, or in device class that of its stack. -/
def Work.homeDie (w : Work) (pa : Nat) : Nat :=
  if regionOf pa = 0 then
    let (c, s) := spaceClass (pa / 2 ^ 42 % 64)
    if c = 4 then (w.locate (plOfPa pa) (pa % 2 ^ 42)).stack / 12 else (setStacks c s).headD 0 / 12
  else 0

/-- The home slice of a line (R232). -/
def Work.homeSlice (w : Work) (pa : Nat) : Nat :=
  let f (lo : Nat) := pa / 2 ^ lo % 128
  128 * w.homeDie pa + (f 11 ^^^ f 18 ^^^ f 25 ^^^ f 32 ^^^ f 39)

/-- Bank column and set of a line in its slice (R232). -/
def bankColumn (pa : Nat) : Nat := pa / 2 ^ 7 % 16
def setOf (pa : Nat) : Nat := pa / 2 ^ 18 % 128

/-- A line of a dead channel (R240). -/
def Work.onDeadChannel (w : Work) (line : Nat) : Bool :=
  let pa := line * 128
  if regionOf pa = 0 && w.dev.unc.hbm.any (fun s => s.2.dead0 != [] || s.2.dead1 != []) then
    let l := w.locate (plOfPa pa) (pa % 2 ^ 42)
    ((w.dev.stack l.stack).dead (pa / 2 ^ 48 % 2)).contains l.channel
  else false

/-- A line of a channel that is being copied to a spare, whose accesses wait (R240). -/
def Work.onCopying (w : Work) (line : Nat) : Bool :=
  let pa := line * 128
  if regionOf pa = 0 && w.dev.unc.hbm.any (fun s => s.2.copying != []) then
    let l := w.locate (plOfPa pa) (pa % 2 ^ 42)
    (w.dev.stack l.stack).copying.contains l.channel
  else false

/-- HDM decoders map every offset from `lo` up to `hi`; `fuel` bounds the decoders that the range crosses. -/
def mapsAll (es : List Decoder) (fuel lo hi : Nat) : Bool :=
  if hi ≤ lo then true
  else match fuel with
    | 0 => false
    | n + 1 =>
      match es.find? fun e => e.base ≤ lo && lo < e.base + e.len with
      | some e => mapsAll es n (e.base + e.len) hi
      | none => false

/-- HDM decoders map every byte of a range of region 1 (R351, R382). -/
def Firmware.covers (f : Firmware) (lo len : Nat) : Bool := mapsAll f.expanders f.expanders.length lo (lo + len)

/-- A line's entry in its home slice, or in the slice of the other die that holds a copy for a requester. -/
def Dev.l2At (d : Dev) (line : Nat) (away : Bool) : Option L2Line :=
  d.unc.l2.find? fun x => x.line == line && x.away == away

/-- The line is held in its slice (R240, R242). -/
def Dev.heldHome (d : Dev) (line : Nat) : Bool := ((d.l2At line false).map (·.held)).getD false

/-- A line of a dead channel that its slice does not hold (R240). -/
def Work.deadLine (w : Work) (line : Nat) : Bool := w.onDeadChannel line && !w.dev.heldHome line

/-! ## What slices hold of a line -/

def Dev.setL2 (d : Dev) (l2 : List L2Line) : Dev := { d with unc := { d.unc with l2 := l2 } }

/-- Changes what slices hold of a line. -/
def Dev.onL2 (d : Dev) (line : Nat) (f : L2Line → L2Line) : Dev :=
  d.setL2 (d.unc.l2.map fun x => if x.line = line && !x.away then f x else x)

/-- An entry that stands in its way, dirty where it was written. -/
def newEntry (line : Nat) (away dirty low packed : Bool) : L2Line :=
  { line := line, away := away, valid := true, pin := false, dirty := dirty, held := false, low := low,
    packed := packed }

/-- A write makes the home's entry dirty, a change of the line's metadata too (R245). -/
def Dev.dirtyL2 (d : Dev) (line : Nat) : Dev :=
  if d.unc.l2 = [] then d else d.onL2 line fun x => if x.valid then { x with dirty := true } else x

/-- The requester-side copy of a line is invalidated (R246). -/
def Dev.dropCopy (d : Dev) (line : Nat) : Dev :=
  if d.unc.l2 = [] then d else d.setL2 (d.unc.l2.filter fun x => !(x.line == line && x.away))

/-- Lines of a slice's overflow hold region (R233). -/
def holdLimit : Nat := 8192

/-- The held lines of a line's slice (R233). -/
def Work.heldLines (w : Work) (line : Nat) : Nat :=
  (w.dev.unc.l2.filter fun x => x.held && w.homeSlice (x.line * 128) == w.homeSlice (line * 128)).length

/-- A line is held in its home slice, in the way that it has or in the overflow hold region where that has room (R233, R240,
R242). -/
def Work.holdLine (w : Work) (line : Nat) : Work :=
  if (w.dev.l2At line false).isSome then
    { w with dev := w.dev.onL2 line fun x => { x with valid := true, held := true, dirty := true } }
  else if holdLimit ≤ w.heldLines line then w
  else { w with dev := w.dev.setL2 (w.dev.unc.l2 ++ [{ newEntry line false true false false with held := true }]) }

/-- A line of a dead channel that was written is held in its slice (R240). -/
def Work.holdDead (w : Work) (line : Nat) : Work := if w.onDeadChannel line then w.holdLine line else w

/-! ## Moving pages -/

/-- Redirects an access to a page that an old home forwards (R286). -/
def Work.redirect (w : Work) (pa : Nat) : Nat :=
  match w.dev.eng.forwards.find? fun f => f.old ≤ pa && pa < f.old + f.size with
  | some f => f.new + (pa - f.old)
  | none => pa

/-- Sets the re-copy bit of a line under COPYX phase 3 (R286). -/
def markRecopy (line : Nat) (o : Op) : Op :=
  match o.kind with
  | .move va e old opl new npl size c ph rc =>
    if (ph == .copying || ph == .switching) && old / 128 ≤ line && line < (old + size) / 128 && !rc.contains line then
      { o with kind := .move va e old opl new npl size c ph (line :: rc) }
    else o
  | _ => o

/-- The line's page is being switched to its new home, and its old home stalls what arrives (R286, phase 4). -/
def Op.stalls (o : Op) (line : Nat) : Bool :=
  match o.kind with
  | .move _ _ old _ _ _ size _ .switching _ => old / 128 ≤ line && line < (old + size) / 128
  | _ => false

def Dev.stalled (d : Dev) (line : Nat) : Bool := d.eng.ops.any (·.stalls line)

def Dev.recopy (d : Dev) (line : Nat) : Dev :=
  { d with eng := { d.eng with ops := d.eng.ops.map (markRecopy line) } }

/-! ## The host window -/

/-- The line lies in the host window (R380). -/
def Work.inWindow (w : Work) (line : Nat) : Bool :=
  w.dev.fw.windowBase ≤ line * 128 && line * 128 < w.dev.fw.windowBase + w.dev.fw.windowLen

/-- A write of a device agent or of a peer may be performed on a line (R380): outside the host window at once, inside it once
BIRsp has come for it. -/
def Work.hostFree (w : Work) (line : Nat) : Bool := !w.inWindow line || w.dev.link.dropped.contains line

/-- The home sends BISnpInv for a line, unless it waits for BIRsp already (R380). -/
def Work.snoopHost (w : Work) (line : Nat) : Work :=
  let l := w.dev.link
  if l.snoops.contains line then w
  else { w with dev := { w.dev with link := { l with snoops := l.snoops ++ [line] } } }

/-- A BIRsp is used up: a write follows it, or the host takes the line again. -/
def Dev.useDrop (d : Dev) (line : Nat) : Dev :=
  if d.link.dropped = [] then d
  else { d with link := { d.link with dropped := d.link.dropped.filter (· != line) } }

/-! ## The device's own writes -/

/-- What a write of one of the device's own units does at the home of a line, which `full` says it covers (R240, R245, R246,
R269, R286): the copy on the requester's side goes, the entry is dirty, a COPYX copies the line again, a line of a dead
channel is held; data that the line has lost, and an error that the rest of it holds, are poison. -/
def Work.ownLine (w : Work) (line : Nat) (full : Bool) : Work :=
  let lost := !full && (w.deadLine line || w.dev.unc.upsets.any fun u =>
    u.fatal && (u.loc == .line line true || u.loc == .line line false))
  let w := ({ w with dev := (((w.dev.useDrop line).dropCopy line).dirtyL2 line).recopy line }).holdDead line
  let m := w.meta line
  let n := m &&& 0x9FFF#16
  let n := if lost then n ||| 0x8000#16 else if full then n &&& 0x7FFF#16 else n
  if n = m then w else w.putMeta line n

/-- The lines that a write reaches, and whether it covers each. -/
def linesFrom (pa n : Nat) : List (Nat × Bool) :=
  (List.range ((pa % 128 + n + 127) / 128)).map fun i =>
    let l := lineOf pa + i
    (l, pa ≤ l * 128 && l * 128 + 128 ≤ pa + n)

/-- Performs a write of one of the device's own units. -/
def Work.putOwn (w : Work) (pa : Nat) (bs : List Byte) : Work :=
  let pa := w.redirect pa
  ((linesFrom pa bs.length).foldl (fun w x => w.ownLine x.1 x.2) w).putBytes pa bs

/-- The lines of a write can take it: none is being copied to a spare or moved, and the host has none of them (R240, R286,
R380); the host is asked for those that it may have. -/
def Work.ownReady (w : Work) (pa n : Nat) : Bool × Work :=
  let ls := (linesFrom (w.redirect pa) n).map (·.1)
  let asked := ls.filter fun l => !w.hostFree l
  (asked = [] && ls.all fun l => !w.onCopying l && !w.dev.stalled l, asked.foldl Work.snoopHost w)

/-- The oldest of the writes that wait, and what stands behind it, as far as their lines take them. -/
def Work.ownDrain (w : Work) (xs : List OwnItem) : Work :=
  match xs with
  | [] => { w with dev := { w.dev with ownQueue := [] } }
  | .msix fn v :: r =>
    let q := w.dev.fq
    ({ w with dev := { w.dev with fq := { q with msix := q.msix ++ [(fn, v)] } } }).ownDrain r
  | .bytes pa bs :: r =>
    match w.ownReady pa bs.length with
    | (true, w) => (w.putOwn pa bs).ownDrain r
    | (false, w) => { w with dev := { w.dev with ownQueue := .bytes pa bs :: r } }

/-- One of the device's own units writes, behind what waits (R344, R380). -/
def Work.ownSend (w : Work) (x : OwnItem) : Work := w.ownDrain (w.dev.ownQueue ++ [x])

/-- A write of one of the device's own units: a record, a log entry, a count, a mirror. -/
def Work.ownWrite (w : Work) (pa : Nat) (bs : List Byte) : Work := w.ownSend (.bytes pa bs)

/-- Bytes with a write that waits in front of them. -/
def OwnItem.over (x : OwnItem) (pa : Nat) (bs : List Byte) : List Byte :=
  match x with
  | .msix _ _ => bs
  | .bytes at_ new => bs.zipIdx.map fun y =>
      if at_ ≤ pa + y.2 && pa + y.2 < at_ + new.length then new.getD (pa + y.2 - at_) 0 else y.1

/-- Bytes as the device's own units have written them, performed or not. -/
def Work.ownLe (w : Work) (pa n : Nat) : Nat :=
  leNat (w.dev.ownQueue.foldl (fun bs x => x.over pa bs) (w.bytes (w.redirect pa) n))

end Sys2Proof.Machine
end

