-- ==== Sys2Proof/Machine/Records.lean ====
section
/-! DEFINITION. What the device writes for software to read: counters, the error log, the crumb log and
the fault queues (R219, R322, R323, R344, R345, R358 to R360, R372, R375, R376). -/
namespace Sys2Proof.Machine

/-! ## Counters -/

/-- CYCLE of a core (R21, R372): 0 at device reset, and one count for every clock of the arithmetic clock. DESIGN CHOICE,
log entry 2: R373 gives the cores no common time base, and in the model they leave reset in one clock. -/
def Dev.cycle (d : Dev) (_core : Nat) : Nat := d.clock

/-- What a core holds; a core not listed is as at reset. -/
def Dev.core (d : Dev) (n : Nat) : Core := cellAt Core.reset d.cores n

def Dev.setCore (d : Dev) (n : Nat) (c : Core) : Dev := { d with cores := cellPut Core.reset d.cores n c }

/-- A device counter of R375 by its number in R377. -/
def Dev.counter (d : Dev) (n : Nat) : Word := cellAt 0 d.ctrs n

def Dev.setCounter (d : Dev) (n : Nat) (v : Word) : Dev := { d with ctrs := cellPut 0 d.ctrs n v }

/-- The counter was written in this clock, so that no event of the clock is counted in it (R378); 320 for a counter of the
device. -/
def Dev.writtenNow (d : Dev) (core n : Nat) : Bool := d.written.any fun x => x.core == core && x.num == n

/-- A counter of the device counts (R375, R378). -/
def Dev.bump (d : Dev) (n k : Nat) : Dev :=
  if d.writtenNow Config.cores n then d else d.setCounter n (d.counter n + BitVec.ofNat 64 k)

/-- Counts an event in the performance counters of one core that select it (R376); one that `stands` names keeps what was
written into it (R378). -/
def countPmc (stands : Nat → Bool) (c : Core) (code n ctx : Nat) : Core :=
  { c with pmc := Vector.ofFn fun i =>
      let sel := c.pmsel[i]
      if !stands (0x10 + i.val) && sel.getLsbD 8 && (sel.extractLsb' 0 8).toNat == code &&
          (!sel.getLsbD 9 || (sel.extractLsb' 10 12).toNat == ctx) then
        c.pmc[i] + BitVec.ofNat 64 n
      else c.pmc[i] }

/-- Applies `f` at one listed core; an unlisted core has no counter enabled. -/
def coresAt (f : Core → Core) (cs : List (Nat × Core)) (n : Nat) : List (Nat × Core) :=
  match cs with
  | [] => []
  | (a, c) :: r => if a = n then (a, f c) :: r else (a, c) :: coresAt f r n

def Dev.count (d : Dev) (core code n ctx : Nat) : Dev :=
  { d with cores := coresAt (fun c => countPmc (d.writtenNow core) c code n ctx) d.cores core }

/-- The key of an agent that acts for a block: no LAUNCHID (R31). -/
def isAgent (k : BlockKey) : Bool := 2 ^ 64 ≤ k.lid

/-- Counts an event of the block that issues, and notes it for a replay (R215, R376). -/
def Dev.countFor (d : Dev) (code n : Nat) : Dev :=
  let b := d.blk
  let d := d.count b.place.core code n b.id.ctx
  if n = 0 || isAgent b.id.key then d else { d with counted := (b.id.key, code, n) :: d.counted }

/-! ## Time -/

/-- Every resident block. -/
def Dev.blocks (d : Dev) : List Block := d.blk :: d.others

/-- The event that a select register counts (R376). -/
def pmcEvent (sel : Word) : Option Nat :=
  if sel.getLsbD 8 then some (sel.extractLsb' 0 8).toNat else none

/-- The context that a select register names, with the filter bit set (R376). -/
def pmcFilter (sel : Word) : Option Nat :=
  if sel.getLsbD 9 then some (sel.extractLsb' 10 12).toNat else none

/-- Adds to each performance counter what its select register counts. -/
def Core.addCounts (c : Core) (f : Word → Nat) : Core :=
  { c with pmc := Vector.ofFn fun i => c.pmc[i] + BitVec.ofNat 64 (f c.pmsel[i]) }

/-- The contexts of a core's blocks in WAITING. -/
def Dev.waitingOn (d : Dev) (core : Nat) : List Nat :=
  (d.blocks.filter fun b => b.place.core == core && b.run == .waiting).map (·.id.ctx)

/-- What `n` clocks add under a select register (R376): events 0 and 10. A clock is no event of a block, so a
filter leaves none. -/
def clockAdds (n : Nat) (waiting : List Nat) (sel : Word) : Nat :=
  match pmcEvent sel, pmcFilter sel with
  | some 0, none => n
  | some 10, none => n * waiting.length
  | some 10, some k => n * waiting.count k
  | _, _ => 0

/-- `n` clocks pass, and the performance counters count them (R36, R372, R376); after a thermal trip the compute tiers have
no power and their clock stands (R21, R391). -/
def Dev.elapse (d : Dev) (n : Nat) : Dev :=
  if n = 0 || d.svc.stage == .tripped then d
  else { d with
    clock := d.clock + n, issues := [], written := [], late := false,
    cores := d.cores.map fun (i, c) => (i, c.addCounts (clockAdds n (d.waitingOn i))) }

/-- The block that issues cannot go on in this clock: a clock passes, and for the promotion of R33 it has had its
turn. -/
def Dev.held (d : Dev) : Dev :=
  { d.elapse 1 with blk := { d.blk with lastIssue := d.clock, promoted := false } }

/-! ## Error log -/

/-- Appends one error-log record (R219) and counts it (R375). -/
def Work.errLog (w : Work) (level kind unit row pa syn cycle : Nat) : Work :=
  let d := w.dev.bump (0x110 + 0x10 * kind + level) 1
  let e := d.err
  let n := (e.reg.extractLsb' 0 5).toNat
  if 8 ≤ n ∧ n ≤ 20 then
    let base := (e.reg.extractLsb' 12 52).toNat * 4096
    let d := if 2 ^ n ≤ e.next then d.bump 0x100 1 else d
    let d := { d with err := { e with next := e.next + 1, seq := e.seq + 1 } }
    ({ w with dev := d }).ownWrite (base + 32 * (e.next % 2 ^ n))
      (natLe 8 e.seq ++ natLe 1 level ++ natLe 1 kind ++ natLe 2 unit ++ natLe 4 row ++ natLe 8 pa ++
        natLe 4 syn ++ natLe 4 cycle)
  else { w with dev := { d with err := { e with seq := e.seq + 1 } } }

/-! ## Crumb log -/

/-- The 32 bytes of an entry (R360). -/
def crumbBytes (dev : Nat) (c : CrumbAt) (kind syn seq : Nat) : List Byte :=
  let lo := kind + 16 * c.form + (if c.engine then 64 else 0) + 256 * (dev % 1024) +
    2 ^ 18 * ((c.pc.toNat / 4) % 2 ^ 46)
  natLe 8 lo ++ natLe 8 c.loc ++ natLe 4 syn ++ natLe 4 seq ++ natLe 6 c.key.lin ++ natLe 2 c.key.lid

/-- LOGBASE of a context (R206). -/
def Dev.logBase (d : Dev) (ctx : Nat) : Word := cellAt 0 d.logbase ctx

/-- Allocates an entry of the context's crumb log (R358, R359): the origin and merge flag that the new
poison carries. -/
def Work.crumb (w : Work) (ctx : Nat) (c : CrumbAt) : Crumb × Work :=
  let lb := w.dev.logBase ctx
  let n := (lb.extractLsb' 0 5).toNat
  let base := (lb.extractLsb' 12 52).toNat * 4096
  if 7 ≤ n ∧ n ≤ 20 ∧ regionOf base < 2 then
    let next := w.ownLe base 4
    let ov := w.ownLe (base + 4) 4
    let seq := w.ownLe (base + 8) 4
    let id := w.dev.fw.deviceId
    let last := 2 ^ n - 1
    if next < last then
      ({ origin := BitVec.ofNat 20 next, merged := false },
        ((w.ownWrite (base + 32 * next) (crumbBytes id c c.kind c.syn seq)).ownWrite base
          (natLe 4 (next + 1))).ownWrite (base + 8) (natLe 4 (seq + 1)))
    else
      let w := if ov = 0 then w.ownWrite (base + 32 * last) (crumbBytes id c 7 0 seq) else w
      ({ origin := BitVec.ofNat 20 last, merged := ov != 0 },
        (w.ownWrite (base + 4) (natLe 4 (ov + 1))).ownWrite (base + 8) (natLe 4 (seq + 1)))
  else ({ origin := 0, merged := false }, w)

/-- The index that the next allocation would return, for a version computed before its entry is
written. -/
def Work.nextCrumb (w : Work) (ctx : Nat) : Crumb := (w.crumb ctx
  { kind := 5, form := 1, loc := 0, syn := 0, pc := 0, engine := false,
    key := { lid := 0, lin := 0 } }).1

/-! ## Fault queues -/

/-- A usable descriptor of the queue table (R322). -/
structure QueueDesc where
  control : Nat
  slots : Nat
  controls : Bool
  msix : Bool
  fn : Nat
  vector : Nat
  ctx : Nat
  deriving DecidableEq, Repr

/-- The descriptor's reserved fields are zero and n is 4 to 16 (R322); entries from 16 up are fault
queues. -/
def descOk (e : Nat) (bs : List Byte) : Bool :=
  let flags := leNat ((bs.drop 9).take 1)
  let n := leNat ((bs.drop 8).take 1)
  4 ≤ n && n ≤ 16 && flags / 8 == 0 && (bs.drop 14).all (· == 0) &&
    (if e < 16 then (flags / 4) % 2 == 0
     else (flags / 2) % 2 == 0 && (bs.drop 12).all (· == 0))

/-- Queue-table entry `e` where it is enabled and valid (R322). -/
def Work.queueDesc (w : Work) (e : Nat) : Option QueueDesc :=
  let bs := w.bytes (w.dev.fw.queueTable + 64 * e) 64
  let flags := leNat ((bs.drop 9).take 1)
  if descOk e bs && flags % 2 == 1 then
    some { control := leNat (bs.take 8), slots := 2 ^ leNat ((bs.drop 8).take 1),
           controls := (flags / 2) % 2 == 1, msix := (flags / 4) % 2 == 1,
           fn := leNat ((bs.drop 10).take 1), vector := leNat ((bs.drop 11).take 1),
           ctx := leNat ((bs.drop 12).take 2) }
  else none

/-- The kinds of fault-queue records (R344). -/
inductive RecKind where
  | faultBatch | kill | abandon | restripeHint | repack | repackLow | repackUrgent | starved
  | launchReject | launchDone | queueError
  deriving DecidableEq, Repr

def RecKind.code (k : RecKind) : Nat :=
  match k with
  | .faultBatch => 1
  | .kill => 2
  | .abandon => 3
  | .restripeHint => 4
  | .repack => 5
  | .repackLow => 6
  | .repackUrgent => 7
  | .starved => 8
  | .launchReject => 9
  | .launchDone => 10
  | .queueError => 11

/-- A record before it has a slot (R344): the header's fields and the bytes from 32 on. -/
structure Rec where
  kind : RecKind
  pages : Nat
  onePage : Bool
  engine : Bool
  ctxid : Nat
  lid : Nat
  bid : Nat
  rest : List Byte
  deriving DecidableEq, Repr

/-- The 384 bytes of a record with its sequence number and the redirected bit (R344, R345). -/
def Rec.bytes (r : Rec) (redirected : Bool) (seq : Nat) : List Byte :=
  let b := natLe 1 r.kind.code ++ [0] ++ natLe 1 r.pages ++
    natLe 1 ((if r.onePage then 1 else 0) + (if r.engine then 2 else 0) +
      (if redirected then 4 else 0)) ++
    natLe 4 r.ctxid ++ natLe 8 r.lid ++ natLe 8 r.bid ++ natLe 8 seq ++ r.rest
  b ++ List.replicate (384 - b.length) 0

/-- The next sequence number of a fault queue, and the queues with it taken. -/
def takeSeq (qs : List FaultQueue) (fn : Nat) : Nat × List FaultQueue :=
  match qs with
  | [] => (0, [{ fn := fn, seq := 1, seen := 0 }])
  | q :: r =>
    if q.fn = fn then (q.seq, { q with seq := q.seq + 1 } :: r)
    else let (n, r') := takeSeq r fn; (n, q :: r')

/-- A function has an MSI-X vector (R379): one byte names those of the physical function, and a virtual function that is
enabled has 64. -/
def Dev.hasVector (d : Dev) (fn v : Nat) : Bool := fn == 0 || (fn ≤ d.fw.vfs && v < 64)

/-- Writes a record into a free slot of queue `fn`: the slot, then the producer count, then the MSI-X
message (R344, R381); the physical address of the record, or none at a full or disabled queue. -/
def Work.appendTo (w : Work) (fn : Nat) (redirected : Bool) (r : Rec) : Option (Nat × Work) :=
  match w.queueDesc (16 + fn) with
  | none => none
  | some q =>
    let prod := w.ownLe q.control 8
    let cons := w.le (q.control + 0x80) 8
    if q.slots ≤ prod - cons then none
    else
      let (seq, qs) := takeSeq w.dev.fq.queues fn
      let pa := q.control + 0x200 + (prod % q.slots) * 384
      let d := w.dev
      let reused (b : Batch) : Batch := if b.record = some pa then { b with record := none } else b
      let w := { w with dev := { d with fq := { d.fq with
        queues := qs, batches := d.fq.batches.map reused } } }
      let w := (w.ownWrite pa (r.bytes redirected seq)).ownWrite q.control (natLe 8 (prod + 1))
      some (pa, if q.msix && d.hasVector q.fn q.vector then w.ownSend (.msix q.fn q.vector) else w)

/-- Writes a record to its function's queue, or to that of function 0 where its own is disabled
(R345). -/
def Work.append (w : Work) (fn : Nat) (r : Rec) : Option (Nat × Work) :=
  match w.queueDesc (16 + fn) with
  | some _ => w.appendTo fn false r
  | none => w.appendTo 0 true r

/-- The queue a record of function `fn` ends in (R345). -/
def Work.queueOf (w : Work) (fn : Nat) : Nat := if (w.queueDesc (16 + fn)).isSome then fn else 0

/-- A record as a device-held one. -/
def Rec.hold (r : Rec) (fn : Nat) : HeldRec := { fn := fn, body := r.bytes false 0, batch := none }

/-- Sends a record that waits in the device at a full queue, behind the other records of its function
(R345). -/
def Work.sendRec (w : Work) (fn : Nat) (r : Rec) : Work :=
  let keep : Work :=
    { w with dev := { w.dev with fq := { w.dev.fq with held := w.dev.fq.held ++ [r.hold fn] } } }
  if w.dev.fq.held.any (·.fn == fn) then keep
  else match w.append fn r with
    | some (_, w') => w'
    | none => keep

/-- The fields of a held record, read back from its bytes. -/
def HeldRec.toRec (h : HeldRec) : Rec :=
  let b (i n : Nat) : Nat := leNat ((h.body.drop i).take n)
  { kind := match b 0 1 with
      | 1 => .faultBatch
      | 2 => .kill
      | 3 => .abandon
      | 4 => .restripeHint
      | 5 => .repack
      | 6 => .repackLow
      | 7 => .repackUrgent
      | 8 => .starved
      | 9 => .launchReject
      | 10 => .launchDone
      | _ => .queueError,
    pages := b 2 1, onePage := b 3 1 % 2 == 1, engine := (b 3 1 / 2) % 2 == 1, ctxid := b 4 4,
    lid := b 8 8, bid := b 16 8, rest := h.body.drop 32 }

/-- Writes the held records that now find a slot, in order, function by function (R345). -/
def Work.flushHeld (w : Work) (hs : List HeldRec) (blocked : List Nat) : Work × List HeldRec :=
  match hs with
  | [] => (w, [])
  | h :: r =>
    if blocked.contains h.fn then
      let (w', k) := w.flushHeld r blocked
      (w', h :: k)
    else match w.append h.fn h.toRec with
      | some (_, w') => w'.flushHeld r blocked
      | none =>
        let (w', k) := w.flushHeld r (h.fn :: blocked)
        (w', h :: k)

def Work.flush (w : Work) : Work :=
  let (w', k) := w.flushHeld w.dev.fq.held []
  { w' with dev := { w'.dev with fq := { w'.dev.fq with held := k } } }

/-- CTXID as CSRs and records show it (R206). -/
def BlockId.ctxid (b : BlockId) : Nat := b.ctx % 4096 + 65536 * (b.asid % 65536)

/-- BLOCKID.L (R206). -/
def BlockId.logical (b : BlockId) : Word :=
  BitVec.ofNat 64 (b.x % 2 ^ 16 + 2 ^ 16 * (b.y % 2 ^ 16) + 2 ^ 32 * (b.z % 2 ^ 16) +
    2 ^ 48 * (b.member % 64))

/-- The KILL record of a block (R210, R344). DESIGN CHOICE, log entry 85: the layout has no field for the faulting address
that R130 wants of a FRAME_EXHAUSTED report. -/
def Block.killRec (b : Block) (cause pc elem flt : Nat) : Rec :=
  { kind := .kill, pages := 0, onePage := false, engine := false, ctxid := b.id.ctxid,
    lid := b.id.key.lid, bid := b.id.logical.toNat,
    rest := natLe 8 cause ++ natLe 8 pc ++ natLe 8 elem ++ natLe 8 flt }

/-- An open batch (R344) once its record is written; none at a full queue (R345). -/
def Work.sendBatch (w : Work) (fn : Nat) (owner : BatchOwner) (r : Rec) : Option (Nat × Work) :=
  if w.dev.fq.held.any (·.fn == fn) then none
  else match w.append fn r with
    | none => none
    | some (pa, w') =>
      let f := w'.dev.fq
      let id := f.nextBatch
      let b : Batch := { id := id, owner := owner, record := some pa, pc := BitVec.ofNat 64 (leNat (r.rest.take 8)),
                         queueFn := w.queueOf fn, answer := none }
      some (id, { w' with dev := { w'.dev with
        fq := { f with batches := f.batches ++ [b], nextBatch := id + 1 } } })

/-- The answer to a batch, if any (R345). -/
def Dev.answer (d : Dev) (id : Nat) : Option Answer :=
  match d.fq.batches.find? (·.id == id) with
  | some b => b.answer
  | none => none

/-- Forgets a batch whose answer has acted. -/
def Dev.closeBatch (d : Dev) (id : Nat) : Dev :=
  { d with fq := { d.fq with batches := d.fq.batches.filter (·.id != id) } }

end Sys2Proof.Machine
end

