-- ==== Sys2Proof/Machine/Wire.lean ====
section
/-! DEFINITION. Sending Sloig Link messages: port choice, sequence, the replay buffer (R383 to R386). -/
namespace Sys2Proof.Machine

/-- Opcodes of the messages (R386). -/
inductive LinkOp where
  | rdS | rdX | upg | wb | ucRd | ucWr | atom | inv | recall | fwdS | reHome
  | data | ack | invAck | atomRsp
  deriving DecidableEq, Repr

def LinkOp.code (o : LinkOp) : Nat :=
  match o with
  | .rdS => 0x01
  | .rdX => 0x02
  | .upg => 0x03
  | .wb => 0x04
  | .ucRd => 0x05
  | .ucWr => 0x06
  | .atom => 0x07
  | .inv => 0x10
  | .recall => 0x11
  | .fwdS => 0x12
  | .reHome => 0x13
  | .data => 0x20
  | .ack => 0x21
  | .invAck => 0x22
  | .atomRsp => 0x23

/-- The routing table's word for a device (R389). -/
def Work.route (w : Work) (dev : Nat) : Nat := w.le (w.dev.fw.routing + 4 * dev) 4

/-- The path version to a device (R387, R389). -/
def Work.pathVersion (w : Work) (dev : Nat) : Nat := (w.route dev / 2 ^ 24) % 4

/-- The live ports of a device's set, ascending (R385). -/
def Work.livePorts (w : Work) (dev : Nat) : List Nat :=
  (List.range 24).filter fun i =>
    (w.route dev).testBit i && (w.dev.link.ports.toList.getD i Port.reset).lanes != 0

/-- Updates one port. -/
def Dev.onPort (d : Dev) (i : Nat) (f : Port → Port) : Dev :=
  let ports := Vector.ofFn fun k => if k.val = i then f d.link.ports[k] else d.link.ports[k]
  { d with link := { d.link with ports := ports } }

/-- A message that has no live route from a clock on, unless it has none already (R388). -/
def Msg.parked (m : Msg) (clock : Nat) : Msg := { m with since := some (m.since.getD clock) }

/-- Clocks after which a message without a live route is lost: 10 ms (R6, R388). -/
def lostAfter : Nat := 10000000

/-- The message has had no live route for 10 ms (R388). -/
def Msg.overdue (m : Msg) (clock : Nat) : Bool := (m.since.map fun t => decide (t + lostAfter ≤ clock)).getD false

/-- A message as it takes a port. -/
def Msg.routed (m : Msg) : Msg := { m with since := none }

/-- Puts a message on the live port that R385 chooses for it, where it takes a sequence number and enters the
replay buffer of 256 flits (R383); with no live port it waits (R388). -/
def Work.onWire (w : Work) (m : Msg) : Work :=
  match w.livePorts m.dest with
  | [] => { w with dev := { w.dev with link := { w.dev.link with
      unsent := w.dev.link.unsent ++ [m.parked w.dev.clock] } } }
  | ps =>
    let i := ps.getD (m.index % ps.length) 0
    { w with dev := w.dev.onPort i fun p =>
        { p with seq := (p.seq + 1) % 4096, replay := (p.replay ++ [m.routed]).drop (p.replay.length + 1 - 256) } }

/-- The ordering class of an opcode (R384, R386): REQ, WR, FWD, RSP. -/
def opClass (op : Nat) : Nat :=
  if op = LinkOp.ucWr.code || op = LinkOp.atom.code then 1 else if op < 0x10 then 0 else if op < 0x20 then 2 else 3

/-- A message's index for R385: the line number for REQ, FWD and RSP, `wr` = 16 × core + slice for WR. -/
def Msg.portIndex (m : Msg) (wr : Nat) : Nat := if opClass m.op = 1 then wr else m.line % 2 ^ 42

/-- Sends a message under this device's ID, FWD_S under that of the requester. -/
def Work.post (w : Work) (m : Msg) (wr : Nat) : Work :=
  let m := { m with index := m.portIndex wr, src := if m.op = LinkOp.fwdS.code then m.src else w.dev.fw.deviceId }
  ({ w with dev := { w.dev with link := { w.dev.link with outbox := w.dev.link.outbox ++ [m] } } }).onWire m

/-- The header slot of a message (R384). -/
def Msg.header (m : Msg) : Nat :=
  m.op % 64 + 2 ^ 6 * opClass m.op + 2 ^ 8 * (m.src % 1024) + 2 ^ 18 * (m.dest % 1024) + 2 ^ 28 * (m.tag % 4096) +
    2 ^ 40 * (m.line % 2 ^ 42) + (if m.poison then 2 ^ 82 else 0) + (if m.data = [] then 0 else 2 ^ 83) +
    (if m.op = LinkOp.ucWr.code then 2 ^ 84 else 0) + 2 ^ 85 * (m.extra % 2 ^ 43)

/-- A message without data. -/
def plainMsg (op : LinkOp) (dest tag line : Nat) : Msg :=
  { op := op.code, src := 0, dest := dest, tag := tag, line := line, poison := false, data := [], mask := 0,
    extra := 0, index := 0, since := none }

/-- Takes a fresh tag. -/
def Dev.takeTag (d : Dev) : Nat × Dev :=
  (d.link.nextTag, { d with link := { d.link with nextTag := (d.link.nextTag + 1) % 4096 } })

/-- The peer device of a region-3 address, and the line at its home (R227, R384). -/
def peerOf (pa : Nat) : Nat := (pa / 2 ^ 49) % 1024
def peerLine (pa : Nat) : Nat := (pa % 2 ^ 49) / 128

/-- The physical address of a peer's line as this device names it. -/
def peerPa (dev line : Nat) : Nat := 3 * 2 ^ 60 + dev * 2 ^ 49 + line * 128

/-- The extra header bits of an ATOM (R384): operation, width, byte offset. -/
def atomExtra (op : Nat) (wide : Bool) (offset : Nat) : Nat :=
  op + (if wide then 16 else 0) + 32 * offset

/-- Sends one ATOM for a region-3 word and notes the request (R384). -/
def Work.sendAtom (w : Work) (pa op : Nat) (wide : Bool) (operand expected : Nat) (poison : Bool)
    (by_ : Option BlockKey) (slice : Nat) (elem : Option Nat) : Work :=
  let (tag, d) := w.dev.takeTag
  let r : Req := { tag := tag, kind := .atomic, peer := peerOf pa, line := lineOf pa, by_ := by_,
                   slice := slice, elem := elem, expect := none, answer := none }
  let d := { d with link := { d.link with reqs := d.link.reqs ++ [r] } }
  ({ w with dev := d }).post
    { op := LinkOp.atom.code, src := 0, dest := peerOf pa, tag := tag, line := peerLine pa, poison := poison,
      data := natLe 8 operand ++ natLe 8 expected, mask := 0,
      extra := atomExtra op wide (pa % 128), index := 0, since := none } (16 * w.dev.blk.place.core + slice)

/-- Marks the request sent last as one that expects a value at its word: a compare and exchange, sent again until it finds
that. -/
def Work.expecting (w : Work) (old : Nat) : Work :=
  let l := w.dev.link
  let last := (l.nextTag + 4095) % 4096
  { w with dev := { w.dev with link := { l with reqs := l.reqs.map fun r =>
      if r.tag = last && r.kind = .atomic && r.answer.isNone then { r with expect := some old } else r } } }

/-- Forgets a request whose answer has been used. -/
def Work.dropReq (w : Work) (r : Req) : Work :=
  { w with dev := { w.dev with link := { w.dev.link with reqs := w.dev.link.reqs.filter (· != r) } } }

end Sys2Proof.Machine
end

