-- ==== Sys2Proof/Machine/Ops.lean ====
section
/-! DEFINITION. The named operations on registers and blocks, the end of an instruction, and taking an
exception (R41, R53, R57, R117 to R121, R144, R203 to R210, R369, R370). -/
namespace Sys2Proof.Machine

/-! ## Registers -/

/-- A scalar register; s0 reads as zero and is never poisoned (R117). -/
def Block.rs (b : Block) (r : Reg) : SReg := if r = 0 then SReg.reset else b.s[r.toNat]

/-- The value of a scalar register. -/
def Block.sv (b : Block) (r : Reg) : Word := (b.rs r).val

/-- Writes a scalar register; a write of s0 is discarded (R57, R117). -/
def Block.ws (b : Block) (r : Reg) (v : SReg) : Block :=
  { b with s := if r = 0 then b.s else b.s.set r.toNat v }

/-- A predicate; p0 reads true and is never poisoned (R120). -/
def Block.rp_ (b : Block) (r : PredReg) : PReg := if r = 0 then PReg.plain true else b.p[r.toNat]

/-- Writes a predicate; a write of p0 is discarded (R57, R120). -/
def Block.wp (b : Block) (r : PredReg) (v : PReg) : Block :=
  { b with p := if r = 0 then b.p else b.p.set r.toNat v }

/-- m0: every bit one (R158). -/
def maskAll : MaskReg := { n := 0, fill := true, bits := 0, poison := none }

/-- A mask register; m0 reads as all ones (R158). -/
def Block.rm_ (b : Block) (r : MaskField) : MaskReg := if r = 0 then maskAll else b.m[r.toNat]

/-- Writes a mask register; a write of m0 is ignored (R57, R158). -/
def Block.wm (b : Block) (r : MaskField) (v : MaskReg) : Block :=
  { b with m := if r = 0 then b.m else b.m.set r.toNat v }

/-- A tile register. -/
def Block.tile (b : Block) (t : TileNo) : TileReg := b.t[t.toNat]

/-- Changes a tile register. -/
def Block.setTile (b : Block) (t : TileNo) (v : TileReg) : Block := { b with t := b.t.set t.toNat v }

/-- Writes a tile's committed version. -/
def Block.setVer (b : Block) (t : TileNo) (v : Tile) : Block :=
  b.setTile t { b.tile t with ver := v }

/-- The shape record bound to a tile (R144). -/
def Block.recOf (b : Block) (t : TileNo) : Option ShapeRec :=
  match (b.tile t).bound with
  | .some h => .some b.h[h.toNat]
  | .none => .none

/-- A stream queue of the block. -/
def Block.queue (b : Block) (n : Nat) : StreamQueue := b.queues.toList.getD n StreamQueue.reset

def Block.setQueue (b : Block) (n : Nat) (q : StreamQueue) : Block :=
  { b with queues := Vector.ofFn fun i => if i.val = n then q else b.queues[i] }

/-- The low register of an even pair (R57, R73). -/
def PairNo.lo (p : PairNo) : Reg := p ++ 0#1

/-- The high register of an even pair. -/
def PairNo.hi (p : PairNo) : Reg := p ++ 1#1

/-! ## Levels, shares, cores -/

def Level.code (l : Level) : Nat :=
  match l with
  | .user => 0
  | .super => 1
  | .firm => 2

def Level.ofCode (n : Nat) : Level :=
  match n with
  | 0 => .user
  | 1 => .super
  | _ => .firm

/-- PSTATE as a word (R203). -/
def Pstate.word (p : Pstate) : Word :=
  BitVec.ofNat 64 (p.pl.code + (if p.intrap then 4 else 0) + (if p.reissue then 8 else 0) +
    (if p.marble then 16 else 0) + (if p.notice then 32 else 0) + (if p.compat then 64 else 0))

/-- The effective share (R216). -/
def Block.effShare (b : Block) : Nat := if b.ps.marble then b.place.share / 2 else b.place.share

/-- The die of a core: cores 0 to 159 stand on die A (R14). -/
def dieOfCore (c : Nat) : Nat := c / 160

/-- The cap of R215: the lesser of the thermal cap and what fenced lane groups allow. -/
def Core.shareCap (c : Core) : Nat := Nat.min c.cap (if c.fenced = 0 then 128 else 32)

/-! ## Blocks of the device -/

/-- The block of a key. -/
def Dev.find (d : Dev) (k : BlockKey) : Option Block := d.blocks.find? (·.id.key == k)

/-- Replaces the block of the same key. -/
def Dev.put (d : Dev) (b : Block) : Dev :=
  if d.blk.id.key = b.id.key then { d with blk := b }
  else { d with others := d.others.map fun x => if x.id.key = b.id.key then b else x }

/-- Runs `f` with block `k` in the place of the block that issues, and puts the two back. -/
def Work.onBlock (w : Work) (k : BlockKey) (f : Work → Work) : Work :=
  if w.dev.blk.id.key = k then f w
  else
    match w.dev.others.find? (·.id.key == k) with
    | none => w
    | some b =>
      let old := w.dev.blk
      let rest := w.dev.others.map fun x => if x.id.key = k then old else x
      let w1 := f { w with dev := { w.dev with blk := b, others := rest } }
      let back := (w1.dev.others.find? (·.id.key == old.id.key)).getD old
      let rest := w1.dev.others.map fun x => if x.id.key = old.id.key then w1.dev.blk else x
      { w1 with dev := { w1.dev with blk := back, others := rest } }

/-- A launch of the launch table. -/
def Dev.launch (d : Dev) (lid : Nat) : Option Launch := d.lu.launches.find? (·.lid == lid)

/-- Changes a launch. -/
def Dev.onLaunch (d : Dev) (lid : Nat) (f : Launch → Launch) : Dev :=
  let ls := d.lu.launches.map fun l => if l.lid = lid then f l else l
  { d with lu := { d.lu with launches := ls } }

/-! ## Completion words -/

/-- The device's increment of a completion or done word (R370): the count modulo 2⁶³, the sticky error
flag; the line's poison bit stays. -/
def bumpWord (old : Nat) (err : Bool) : Nat :=
  (old % 2 ^ 63 + 1) % 2 ^ 63 + (if err || old / 2 ^ 63 % 2 == 1 then 2 ^ 63 else 0)

/-! ## The lane allocation table's mirror -/

/-- A block that holds lanes (R37). -/
def Block.resident (b : Block) : Bool := b.run != .retired

/-- A share of all 128 lanes (R35). -/
def Place.wide (p : Place) : Bool := p.share == 128

/-- The row that the mirror shows for a block (R357). -/
def Block.laneRow (b : Block) : List Byte :=
  natLe 8 (1 + (if b.place.wide then 2 else 0) + 4 * b.place.lane + 2 ^ 9 * b.place.share +
    2 ^ 17 * b.effShare + (if b.ps.marble then 2 ^ 25 else 0) + 2 ^ 34 * b.id.ctx) ++
    natLe 8 b.id.key.lid

/-- The block of a slot of a partition. -/
def slotBlock (bs : List Block) (core part slot : Nat) : Option Block :=
  bs.find? fun b => b.resident && b.place.core == core && b.place.slot == slot &&
    (b.place.wide || b.place.part == part)

/-- The 1 KiB that mirrors a core's table (R357). -/
def Dev.laneTable (d : Dev) (core : Nat) : List Byte :=
  let rows := (List.range 32).flatMap fun r =>
    match slotBlock d.blocks core (r / 8) (r % 8) with
    | some b => b.laneRow
    | none => List.replicate 16 0
  let c := d.core core
  rows ++ natLe 8 (c.fenced.toNat + 2 ^ 16 * c.cap + 2 ^ 24 * c.shareCap) ++ List.replicate 504 0

/-- Writes a core's mirror, where firmware runs and has given its address (R357, R366). -/
def Work.mirror (w : Work) (core : Nat) : Work :=
  if w.dev.svc.stage != .running then w
  else w.ownWrite (w.dev.fw.mirror + 1024 * core) (w.dev.laneTable core)

/-! ## Retirement -/

/-- What retirement does to a stream queue of a launch (R41, R343): a fill that is not done stops, and its completion
word is to take +1 with bit 63 set; the queue's batch is closed. -/
def Dev.stopFill (d : Dev) (lid : Nat) (q : StreamQueue) : Dev :=
  match q.st with
  | .filling | .faulted =>
    let d := match q.batch with
      | some id => d.closeBatch id
      | none => d
    { d with eng := { d.eng with owed := d.eng.owed ++ [(lid, q.cw)] } }
  | .idle | .abandoned | .done => d

def Dev.stopFills (d : Dev) (lid : Nat) (qs : List StreamQueue) : Dev := qs.foldl (fun d q => d.stopFill lid q) d

/-- The errors in cells that a block gives up are no longer the block's; its queued writes are still its own. -/
def Dev.dropCells (d : Dev) (b : Block) : Dev :=
  if d.unc.upsets = [] then d
  else { d with unc := { d.unc with upsets := d.unc.upsets.filter fun u => match u.loc with
    | .scratch k _ | .tile k _ _ _ | .inbox k _ _ _ | .slot k _ _ _ _ | .file k => k != b.id.key
    | .entry k _ => k != b.id.key || b.pend != []
    | .acc .. | .line .. => true } }

/-- The block that issues moves to RETIRED and releases what it holds (R41); its committed writes stay
queued until they are performed (R267). -/
def Work.retireBlock (w : Work) (killed : Bool) : Work :=
  let b := w.dev.blk
  let open_ := b.batch.toList ++ b.parked.toList
  let d := open_.foldl (fun d x => d.closeBatch x.id) (w.dev.dropCells b)
  let d := (d.stopFills b.id.key.lid b.queues.toList).onLaunch b.id.key.lid fun l =>
    { l with retired := l.retired + 1, killed := l.killed || killed }
  ({ w with dev := { d with blk :=
      { b with run := .retired, wait := .none, loop := none, batch := none, again := none, parked := none,
               fencing := false, stop := none, window := none, preempt := none, flight := none,
               queues := Vector.replicate 4 StreamQueue.reset } } }).mirror b.place.core

/-! ## Words of the tile store -/

def AccWord.zero : AccWord := { bits := 0, p := false }

/-- Where a word stands in its core, for the errors that the cells hold. -/
def Place.accAt (p : Place) (k : Nat) : UpsetAt := .acc p.core (p.tsBase + k / 512) (k % 512)

/-- Writes words of the block's grant; a write replaces what a cell holds, its error too (R250, R251). -/
def Dev.putWords (d : Dev) (ws : List (Nat × AccWord)) : Dev :=
  let b := d.blk
  let acc := ws.foldl (fun a (k, w) => cellPut AccWord.zero a k w) b.acc
  let d : Dev := { d with blk := { b with acc := acc } }
  if d.unc.upsets = [] then d
  else
    let gone := ws.map fun (k, _) => b.place.accAt k
    { d with unc := { d.unc with upsets := d.unc.upsets.filter fun u => !gone.contains u.loc } }

/-- The stop point of R259: the complete lines become architectural, and RP holds their count. -/
def Work.takeStop (w : Work) : Work :=
  match w.dev.blk.stop with
  | none => w
  | some p =>
    let d := w.dev.putWords p.words
    { w with dev := { d with blk := { d.blk with stop := none, rp := p.rows, rpAddr := p.pc } } }

/-! ## Taking an exception -/

/-- Forgets the reads that the block that issues has sent to peers. -/
def Dev.dropReads (d : Dev) : Dev :=
  if d.link.reqs = [] then d
  else
    let keep := d.link.reqs.filter fun r => !(r.kind == .read && r.by_ == some d.blk.id.key)
    { d with link := { d.link with reqs := keep } }

/-- The block's batch is dealt with. -/
def Work.clearBatch (w : Work) : Work :=
  let b := w.dev.blk
  match b.batch with
  | none => w
  | some bb => { w with dev := { w.dev.closeBatch bb.id with blk := { b with batch := none } } }

/-- The batch of the load or store that is to issue again is dealt with (R197). -/
def Work.clearParked (w : Work) : Work :=
  let b := w.dev.blk
  match b.parked with
  | none => w
  | some bb => { w with dev := { w.dev.closeBatch bb.id with blk := { b with parked := none } } }

/-- The word at the program counter is the load or store that PSTATE.REISSUE is to issue again (R197); a word of a
handler entered meanwhile is not; log entry 84. -/
def Block.reissuing (b : Block) : Bool := b.ps.reissue && b.again == .some b.pc

/-- The cause numbers (R209). -/
def Cause.number (c : Cause) : Nat :=
  match c with
  | .illegal => 1
  | .priv => 2
  | .tileUnbound => 3
  | .typeState => 4
  | .pcAlign => 5
  | .fetchFault => 6
  | .addrAlign => 7
  | .access => 8
  | .pageFault => 9
  | .frameExhausted => 10
  | .addxOverflow => 11
  | .poisonAddr => 12
  | .poisonBranch => 13
  | .poisonStore => 14
  | .poisonShape => 15
  | .poisonCtrl => 16
  | .tileSpace => 17
  | .shapeDesc => 18
  | .shapeStale => 19
  | .shapeMismatch => 20
  | .tileIndex => 21
  | .laneLimit => 22
  | .accRange => 23
  | .tmapInvalid => 24
  | .scratchRange => 25
  | .compStream => 26
  | .maskImage => 27
  | .sysState => 28
  | .trap => 29
  | .doubleTrap => 30
  | .hwError => 31
  | .abort => 32
  | .gangIndex => 33
  | .queueInvalid => 34
  | .graphInvalid => 35
  | .sparseMeta => 36
  | .engineDesc => 37
  | .saveFault => 38

/-- The causes of class K, which always kill (R209). -/
def Cause.kills (c : Cause) : Bool :=
  c == .frameExhausted || c == .doubleTrap || c == .hwError || c == .abort || c == .saveFault

/-- Kills the block that issues (R210): the kill record, then RETIRED. -/
def Work.kill (w : Work) (c : Cause) (code : Nat) (pc : Word) (elem : Nat) (flt : Word) : Work :=
  let b := w.dev.blk
  let w := w.sendRec b.id.fn (b.killRec (c.number + 256 * code) pc.toNat elem flt.toNat)
  w.retireBlock true

/-- Trap entry (R210): the one operation that takes an exception. `pc` is the address that TRAPPC
saves; a faulted MMAV reaches its stop point first (R259). -/
def Work.trapEntry (w : Work) (c : Cause) (code elem : Nat) (flt : Option Word) (pc : Word) : Work :=
  let w := ({ w.takeStop with dev := w.takeStop.dev.dropReads }).clearBatch
  let refused := w.dev.blk.reissuing && c == .pageFault
  let w := if refused then w.clearParked else w
  let b := w.dev.blk
  let info := flt.getD b.csr.fltinfo
  if c.kills || b.csr.trapvec == 0 || b.ps.intrap then
    let c' := if !c.kills && b.ps.intrap && b.csr.trapvec != 0 then Cause.doubleTrap else c
    w.kill c' code pc elem info
  else
    { w with dev := { w.dev with blk :=
        { b with
          csr := { b.csr with trapcause := BitVec.ofNat 64 (c.number + 256 * code), trappc := pc,
                              traptile := BitVec.ofNat 64 elem, fltinfo := info },
          ps := { b.ps with intrap := true, reissue := b.ps.reissue && !refused },
          again := if refused then none else b.again,
          pc := b.csr.trapvec, loop := none, recvtUntil := none, fencing := false, flight := none,
          lastIssue := w.dev.clock, promoted := false } } }

/-- The address that a trap of the block saves: the instruction's, or the next for TRAP (R208, R210). -/
def trapPc (c : Cause) (pc : Word) : Word := if c == .trap then pc + 4 else pc

/-! ## The end of an instruction -/

/-- A block after a commit at which the program counter becomes `pc`. -/
def Block.advance (b : Block) (clock : Nat) (pc : Word) : Block :=
  { b with pc := pc, lastIssue := clock, flight := .none, promoted := false, fencing := false }

/-- Counts a commit (R376): event 1, and event 2 for the tile side. -/
def Dev.countCommit (d : Dev) (tile : Bool) : Dev :=
  let d := d.count d.blk.place.core 1 1 d.blk.id.ctx
  if tile then d.count d.blk.place.core 2 1 d.blk.id.ctx else d

/-- Commits block `b` with its next program counter. -/
def Dev.commit (d : Dev) (tile : Bool) (b : Block) (pc : Word) : Dev :=
  { d.countCommit tile with blk := b.advance d.clock pc }

/-- Commits in a state: memory stands. -/
def State.commit (s : State) (tile : Bool) (b : Block) (pc : Word) : State :=
  { s with dev := s.dev.commit tile b pc }

/-- The next state of an instruction that changes registers alone. -/
def done (s : State) (b : Block) : Host.Outcome State Fault Refusal :=
  .next (s.commit false b (s.dev.blk.pc + 4))

/-- The state after the block that issues traps. -/
def State.takeTrap (s : State) (c : Cause) (code elem : Nat) (flt : Option Word) : State :=
  ((Work.start s).trapEntry c code elem flt (trapPc c s.dev.blk.pc)).settle s

/-- The next state of an instruction that traps with nothing changed. -/
def trapNow (s : State) (c : Cause) : Host.Outcome State Fault Refusal :=
  .next (s.takeTrap c 0 0 none)

/-- A device with the performance counts of another: the events of an unwound instruction still count (R376). -/
def Dev.withCounts (d e : Dev) : Dev := { d with cores := e.cores, counted := e.counted }

/-- The working copy after an instruction stopped (see `Stop`); one that must wait tries again in a later
clock, when it counts its events. -/
def stopped (s : State) (e : Stop) (w : Work) : Work :=
  match e with
  | .trap c code elem flt =>
    ({ Work.start s with dev := s.dev.withCounts w.dev }).trapEntry c code elem flt (trapPc c s.dev.blk.pc)
  | .stay => { w with dev := (w.dev.withCounts s.dev).held }
  | .wait x =>
    let d := w.dev.withCounts s.dev
    { w with dev := { d with blk := { d.blk with run := .waiting, wait := x } } }
  | .partial_ =>
    let d := w.dev.countCommit true
    let d := d.count d.blk.place.core 8 1 d.blk.id.ctx
    { w with dev := { d with blk := d.blk.advance d.clock d.blk.pc } }

/-- Runs a meaning that gives the next program counter. -/
def runTo (s : State) (tile : Bool) (m : M Word) : Host.Outcome State Fault Refusal :=
  match m (Work.start s) with
  | .ok pc w => .next ({ w with dev := w.dev.commit tile w.dev.blk pc }.settle s)
  | .error e w => .next ((stopped s e w).settle s)

/-- Runs a meaning after which the program counter advances by 4 (R121). -/
def run (s : State) (tile : Bool) (m : M Unit) : Host.Outcome State Fault Refusal :=
  runTo s tile (do m; return s.dev.blk.pc + 4)

/-- Runs an event of the device. -/
def event (s : State) (f : Work → Work) : Host.Outcome State Fault Refusal :=
  .next ((f (Work.start s)).settle s)

/-- RTH (R208): with INTRAP set the program counter becomes TRAPPC and INTRAP clears; a TRAPPC that is
not a multiple of 4 traps with PC_ALIGN (R52). -/
def returnFromTrap : M Word := do
  let b ← getBlk
  if !b.ps.intrap then raise .sysState
  else if b.csr.trappc.extractLsb' 0 2 != 0 then raise .pcAlign
  else do
    setBlk { b with ps := { b.ps with intrap := false } }
    return b.csr.trappc

/-- FLTINFO for a tile's element (R206). -/
def fltInfo (t : TileNo) (row col : Nat) (mask : Bool) : Word :=
  BitVec.ofNat 64 (t.toNat + 32 * (row % 2048) + 65536 * (col % 65536) + 2 ^ 32 +
    (if mask then 2 ^ 33 else 0))

end Sys2Proof.Machine
end

