-- ==== Sys2Proof/Machine/Slices.lean ====
section
/-! DEFINITION. The L2 slices: which lines they hold, allocation, pins, held lines, requester-side copies, compressed
pages, the miss counts of the hot-page tracker, and the fault-queue records of the controllers (R233 to R237, R242,
R246, R345, R352, R376).

The bytes of a line are held once, in `State.mem`: a line that a slice holds reads as its memory does. -/
namespace Sys2Proof.Machine

/-! ## Lines of a slice -/

/-- The slice in which an entry stands: a requester-side copy in the other die's slice of the same place (R246). -/
def Work.sliceHolding (w : Work) (line : Nat) (away : Bool) : Nat :=
  let h := w.homeSlice (line * 128)
  if away then (h + 128) % 256 else h

/-- The entries that hold a way of the set in which a line would stand (R232). -/
def Work.waysOf (w : Work) (line : Nat) (away : Bool) : List L2Line :=
  let pa := line * 128
  w.dev.unc.l2.filter fun x =>
    bankColumn (x.line * 128) == bankColumn pa && setOf (x.line * 128) == setOf pa &&
      w.sliceHolding x.line x.away == w.sliceHolding line away

/-- Ways of a set (R232). -/
def setWays : Nat := 16

/-- The line lies on a compressed page, as a translation at hand has it (R242, log entry 46). -/
def Work.packedLine (w : Work) (line : Nat) : Bool :=
  w.dev.unc.tlb.any fun e => e.leaf.compressed && e.leaf.base ≤ line * 128 && line * 128 < e.leaf.base + e.leaf.size

/-! ## Records of the controllers -/

/-- The stack that a controller's record names (R344): byte 32, or for REPACK that of its page. -/
def Rec.stack (r : Rec) : Nat :=
  match r.kind with
  | .repack => (leNat (r.rest.take 8) / 2 ^ 42) % 64
  | _ => leNat (r.rest.take 1)

/-- Sends a record of kinds 5 to 8: at a full queue one pending record per kind and stack (R345). -/
def Work.sendOnce (w : Work) (r : Rec) : Work :=
  if w.dev.fq.held.any fun h => h.fn == 0 && h.toRec.kind == r.kind && h.toRec.stack == r.stack then w
  else w.sendRec 0 r

/-- A record without context (R344). -/
def deviceRec (k : RecKind) (rest : List Byte) : Rec :=
  { kind := k, pages := 0, onePage := false, engine := false, ctxid := 0, lid := 0, bid := 0, rest := rest }

/-- REPACK_LOW, REPACK_URGENT and COMPRESS_STARVED (R344). -/
def stackRec (k : RecKind) (stack free : Nat) : Rec :=
  deviceRec k (natLe 1 stack ++ List.replicate 7 0 ++ natLe 8 free)

/-! ## Chunks -/

/-- A stack's entry of the carve table (R352). -/
def Work.stackEntry (w : Work) (st : Nat) : Nat := w.dev.fw.carveTable + 1440 + 64 * st

/-- A chunk's address: space σ, the stack's current generation (R352). -/
def Work.chunkPa (w : Work) (st c : Nat) : Nat :=
  4096 * c % 2 ^ 42 + 2 ^ 42 * st + 2 ^ 48 * ((w.dev.stack st).gen % 2)

/-- Draws a chunk from the stack's reserve, whose chunk numbers the spec does not give (R242, items 5 and 6). DESIGN CHOICE,
log entry 47: a region of 16 chunks is served from the reserve alone, so that with the reserve empty its line is held and
COMPRESS_STARVED sent, though the free list may hold chunks. -/
def Work.takeReserve (w : Work) (st : Nat) : Option Nat × Work :=
  let e := w.stackEntry st
  let reserve := w.le (e + 16) 4
  if reserve = 0 then (none, w.sendOnce (stackRec .starved st (w.le (e + 4) 4)))
  else
    let n := w.dev.fresh
    let w := { w with dev := { w.dev with fresh := n + 1 } }
    (some (Config.freeChoice n % 2 ^ 32),
      (w.putLe (e + 16) 4 (reserve - 1)).sendOnce (stackRec .repackUrgent st (w.le (e + 4) 4)))

/-- Takes a chunk: from the free list, else from the reserve (R242, R352). -/
def Work.takeChunk (w : Work) (st : Nat) : Option Nat × Work :=
  let e := w.stackEntry st
  let head := w.le e 4
  let free := w.le (e + 4) 4
  let low := w.le (e + 8) 4
  if head != 0xFFFFFFFF && free != 0 then
    let w' := (w.putLe e 4 (w.le (w.chunkPa st head) 4)).putLe (e + 4) 4 (free - 1)
    (some head, if free = low then w'.sendOnce (stackRec .repackLow st (free - 1)) else w')
  else w.takeReserve st

def Work.takeChunks (w : Work) (st n : Nat) : List Nat × Work :=
  match n with
  | 0 => ([], w)
  | n + 1 =>
    match w.takeChunk st with
    | (none, w) => ([], w)
    | (some c, w) =>
      let (cs, w) := w.takeChunks st n
      (c :: cs, w)

/-- Returns a chunk to the free list (R242, R352). -/
def Work.giveChunk (w : Work) (st c : Nat) : Work :=
  let e := w.stackEntry st
  ((w.putLe (w.chunkPa st c) 4 (w.le e 4)).putLe e 4 c).putLe (e + 4) 4 (w.le (e + 4) 4 + 1)

/-! ## Compression records -/

/-- The stack of a line of a compressed page: class stack, space σ (R242). -/
def stackOfLine (line : Nat) : Nat := line * 128 / 2 ^ 42 % 64

/-- The compression record of a line's page (R352). -/
def Work.recordOf (w : Work) (line : Nat) : Nat :=
  w.le (w.stackEntry (stackOfLine line) + 20) 8 + 256 * (line * 128 % 2 ^ 42 / 65536)

/-- The two bits of a block's state (R242). -/
def Work.blockState (w : Work) (line : Nat) : Nat :=
  let k := line % 512
  (w.byte (w.recordOf line + 128 + k / 4)).toNat / 4 ^ (k % 4) % 4

def Work.setBlockState (w : Work) (line st : Nat) : Work :=
  let k := line % 512
  let pa := w.recordOf line + 128 + k / 4
  let b := (w.byte pa).toNat
  w.putByte pa (BitVec.ofNat 8 (b - b / 4 ^ (k % 4) % 4 * 4 ^ (k % 4) + st * 4 ^ (k % 4)))

/-- Where a block's slot lies (R242). -/
def Work.slotPa (w : Work) (line : Nat) : Nat :=
  let r := w.recordOf line
  let at_ := line % 512 * (32 * (1 + (w.byte r).toNat % 4))
  w.chunkPa (stackOfLine line) (w.le (r + 8 + 4 * (at_ / 4096)) 4) + at_ % 4096

/-- The flag MIGRATING of a page's record (R242). -/
def Work.markRecord (w : Work) (line : Nat) (on : Bool) : Work :=
  let pa := w.recordOf line + 4
  let b := w.byte pa
  w.putByte pa (if on then b ||| 2#8 else b &&& 0xFD#8)

/-- Gives a block the next exception slot of its page's region (R242, item 2). -/
def Work.useException (w : Work) (line : Nat) : Work :=
  let r := w.recordOf line
  let n := w.le (r + 2) 2
  ((w.putLe (w.slotPa line) 2 n).putLe (r + 2) 2 (n + 1)).setBlockState line 2

/-- Raises the page's re-pack request (R242, item 3). -/
def Work.askRepack (w : Work) (line : Nat) : Work :=
  let r := w.recordOf line
  let page := line / 512 * 65536
  (w.putByte (r + 4) (w.byte (r + 4) ||| 1#8)).sendOnce (deviceRec .repack (natLe 8 page))

/-- A block takes a chunk of its own from the reserve, since its page's region has no slot left (R242, item 6); the
index that its slot shows is free. -/
def Work.spill (w : Work) (line c : Nat) : Work :=
  let n := w.dev.fresh
  let u := w.dev.unc
  let w := { w with dev := { w.dev with fresh := n + 1, unc := { u with spills := u.spills ++ [(line, c)] } } }
  (w.putLe (w.slotPa line) 2 (Config.freeChoice n % 512)).setBlockState line 2

/-- The line stays in its slice's overflow hold region, unless that is full (R242, items 7 and 9). -/
def Work.holdStarved (w : Work) (line : Nat) : Work :=
  let u := w.dev.unc
  if u.starved.contains line || holdLimit ≤ w.heldLines line then w
  else
    let d : Dev := { w.dev with unc := { u with starved := u.starved ++ [line] } }
    ({ w with dev := d }).holdLine line

/-- A line that is held no longer. -/
def Work.release (w : Work) (line : Nat) : Work :=
  let u := w.dev.unc
  if u.starved.contains line then
    let d : Dev := { w.dev with unc := { u with starved := u.starved.filter (· != line) } }
    { w with dev := d.onL2 line fun x => { x with held := false, dirty := false } }
  else w

/-- An older line of the stack waits for a chunk: a new eviction stands behind it (R248). -/
def Work.behindHeld (w : Work) (line : Nat) : Bool :=
  match w.dev.unc.starved.filter fun l => stackOfLine l == stackOfLine line with
  | [] => false
  | l :: _ => l != line

/-- Writes a dirty line of a compressed page back (R242, items 1 to 7), and whether it is written; which blocks fit is
a free value. -/
def Work.writeBack (w : Work) (line : Nat) : Bool × Work :=
  let r := w.recordOf line
  let n := w.dev.fresh
  let w := { w with dev := { w.dev with fresh := n + 1 } }
  let used := (w.byte (r + 1)).toNat
  let kept (w : Work) : Bool × Work := (true, w.release line)
  if (w.bytes (line * 128) 128).all (· == 0) then kept (w.setBlockState line 0)
  else if Config.freeChoice n % 2 = 0 then kept (w.setBlockState line 1)
  else if w.blockState line = 2 then kept w
  else if w.le (r + 2) 2 < 32 * used && w.le (r + 2) 2 < 512 then kept (w.useException line)
  else if w.behindHeld line then (false, w.holdStarved line)
  else
    match if used < 16 then w.takeChunk (stackOfLine line) else w.takeReserve (stackOfLine line) with
    | (none, w) => (false, w.holdStarved line)
    | (some c, w) =>
      if used < 16 then
        let w := (w.putLe (r + 56 + 4 * used) 4 c).putByte (r + 1) (BitVec.ofNat 8 (used + 1))
        kept ((w.useException line).askRepack line)
      else kept ((w.spill line c).askRepack line)

/-- The chunks that a record lists (R242). -/
def Work.recordChunks (w : Work) (r : Nat) : List Nat :=
  let slots := 4 * (1 + (w.byte r).toNat % 4)
  (List.range slots).map (fun i => w.le (r + 8 + 4 * i) 4) ++
    (List.range (w.byte (r + 1)).toNat).map fun i => w.le (r + 56 + 4 * i) 4

/-- Lays a compressed page out again at its new place and returns the old chunks (R242, R287). -/
def Work.recode (w : Work) (old new : Nat) : Work :=
  let u := w.dev.unc
  let mine := u.spills.filter fun x => x.1 / 512 == old / 512
  let oldChunks := w.recordChunks (w.recordOf old) ++ mine.map (·.2)
  let others (l : Nat) : Bool := l / 512 != old / 512
  let w := { w with dev := { w.dev with unc :=
    { u with spills := u.spills.filter fun x => others x.1, starved := u.starved.filter others } } }
  let w := { w with dev := w.dev.setL2 (w.dev.unc.l2.map fun (x : L2Line) =>
    if u.starved.contains x.line && !others x.line then { x with held := false, dirty := false } else x) }
  let n := w.dev.fresh
  let w := { w with dev := { w.dev with fresh := n + 1 } }
  let code := Config.freeChoice n % 3
  let (cs, w) := w.takeChunks (stackOfLine new) (4 * (1 + code))
  let r := w.recordOf new
  let w := w.putBytes r (natLe 8 code ++ cs.flatMap (natLe 4 ·) ++
    List.replicate (248 - 4 * cs.length) 0)
  let w := (List.range 512).foldl (fun w k => (w.writeBack (new + k)).2) w
  oldChunks.foldl (fun w c => w.giveChunk (stackOfLine old) c) w

/-- Drains the slice's lines that wait for chunks, oldest first (R242, item 8). -/
def Work.drainStarved (w : Work) (lines : List Nat) : Work :=
  match lines with
  | [] => w
  | l :: r =>
    let e := w.stackEntry (stackOfLine l)
    if w.le (e + 4) 4 = 0 ∧ w.le (e + 16) 4 = 0 then w.drainStarved r else (w.writeBack l).2.drainStarved r

/-! ## Allocation -/

/-- Gives up the way of an entry (R235). -/
def Dev.evict (d : Dev) (x : L2Line) : Dev :=
  d.setL2 (d.unc.l2.filter fun y => !(y.line == x.line && y.away == x.away))

/-- The entries of a set that may be chosen for replacement, those of low priority alone where there are any (R235). -/
def victims (ways : List L2Line) : List L2Line :=
  let free := ways.filter fun x => !x.pin && !x.held
  if free.any (·.low) then free.filter (·.low) else free

/-- A way of a line's set, one of its entries going where all are taken (R235), the order among equals being free. The
dirty data of a compressed page are written back first; an entry for which there is no chunk keeps its way, and another
goes (R242, items 7 and 9): those of `kept` have been tried. -/
def Work.makeWay (w : Work) (line : Nat) (away : Bool) (fuel : Nat) (kept : List Nat) : Bool × Work :=
  match fuel with
  | 0 => (false, w)
  | f + 1 =>
    let ways := w.waysOf line away
    if ways.length < setWays then (true, w)
    else
      let pool := victims (ways.filter fun x => x.away || !kept.contains x.line)
      let n := w.dev.fresh
      match pool[Config.freeChoice n % pool.length]? with
      | none => (false, w)
      | some x =>
        let w := { w with dev := { w.dev with fresh := n + 1 } }
        let (ok, w) := if x.dirty && x.packed && !x.away then w.writeBack x.line else (true, w)
        if ok then (true, { w with dev := w.dev.evict x }) else w.makeWay line away f (x.line :: kept)

/-- Brings a line in, where its set has a way for it (R235, R236). -/
def Work.allocate (w : Work) (line : Nat) (away low : Bool) : Work :=
  match w.dev.l2At line away with
  | some x =>
    if x.valid then w
    else { w with dev := w.dev.setL2 (w.dev.unc.l2.map fun y =>
        if y.line = line && y.away == away then { y with valid := true } else y) }
  | none =>
    let (ok, w) := w.makeWay line away setWays []
    if ok then { w with dev := w.dev.setL2 (w.dev.unc.l2 ++ [newEntry line away false low (w.packedLine line)]) } else w

/-- Every copy of a line is invalidated; one that is pinned or held keeps its way (R236, R379). -/
def Dev.invalidateL2 (d : Dev) (line : Nat) : Dev :=
  d.setL2 ((d.unc.l2.filter fun x => x.line != line || x.pin || x.held).map fun x =>
    if x.line = line && !x.held then { x with valid := false, dirty := false } else x)

/-! ## Accesses -/

/-- Hops on the permutation ring from lane group `g` to a line's bank column (R234). -/
def ringHops (line g : Nat) : Nat :=
  let c := bankColumn (line * 128)
  Nat.min ((c + 16 - g % 16) % 16) ((g % 16 + 16 - c) % 16)

/-- The tracker of a die counts a miss of a page of one or two stacks (R237). -/
def Work.countMiss (w : Work) (line : Nat) : Work :=
  let pa := line * 128
  if regionOf pa = 0 && (spaceClass (pa / 2 ^ 42 % 64)).1 ≤ 1 then
    let u := w.dev.unc
    let page := pa / 65536
    let ms := if u.misses.any (·.1 == page) then u.misses.map fun x => if x.1 = page then (x.1, x.2 + 1) else x
      else u.misses ++ [(page, 1)]
    { w with dev := { w.dev with unc := { u with misses := ms } } }
  else w

/-- How an access uses L2 (R235): whether it bypasses allocation, and whether it inserts at low priority. -/
structure Residency where
  bypass : Bool
  low : Bool
  deriving DecidableEq, Repr

/-- An ordinary access: it allocates, at high priority (R235). -/
def Residency.plain : Residency := { bypass := false, low := false }

/-- The slices hold a valid copy of a line, at its home or for the other die. -/
def Dev.l2Hit (d : Dev) (line : Nat) (away : Bool) : Bool := ((d.l2At line away).map (·.valid)).getD false

/-- An access that reaches a line's home (R233, R235, R237): a miss is counted by the die's tracker and allocates, unless it
bypasses; the way of a pinned line that was invalidated fills in any case (R236). -/
def Work.homeL2 (w : Work) (line : Nat) (r : Residency) : Work :=
  if regionOf (line * 128) = 3 || w.dev.l2Hit line false then w
  else
    let w := w.countMiss line
    if r.bypass && (w.dev.l2At line false).isNone then w else w.allocate line false r.low

/-- An access of the core of the block that issues to a line at its home, or at the requester-side copy that the core's die
holds (R233 to R235, R246), with the counts of R376. The home marks the copy that a read of the other die may leave; an
access from there comes after those of the home's die (R245). -/
def Work.accessL2 (w : Work) (line : Nat) (write : Bool) (r : Residency) : Work :=
  if regionOf (line * 128) = 3 then w
  else
    let die := dieOfCore w.dev.blk.place.core
    let other := regionOf (line * 128) = 0 && die != w.homeDie (line * 128)
    let w := if other then { w with dev := { w.dev with late := true } } else w
    let w := if regionOf (line * 128) = 1 then { w with dev := w.dev.countFor 12 1 } else w
    let away := other && !write
    if away && w.dev.l2Hit line true then w
    else
      let w := if away then w.putMeta line (w.meta line ||| BitVec.ofNat 16 (2 ^ (13 + die))) else w
      let w := if w.dev.l2Hit line false then w else { w with dev := w.dev.countFor 6 1 }
      let w := w.homeL2 line r
      let w := if away && !r.bypass then w.allocate line true r.low else w
      if write || away then { w with dev := w.dev.dirtyL2 line } else w

/-- The demand accesses of the block that issues: each line with the lane group that asks for it (R234, R376); a peer's
line is not cached. -/
def Work.accessLines (w : Work) (ls : List (Nat × Nat)) (write : Bool) (r : Residency) : Work :=
  ls.foldl (fun w x =>
    (if regionOf (x.1 * 128) = 3 then w
      else { w with dev := w.dev.countFor 5 (ringHops x.1 x.2) }).accessL2 x.1 write r) w

/-- The lane group through which the scalar accesses of the block enter (R234). -/
def Place.scalarGroup (p : Place) : Nat := 4 * p.part

/-- A scalar access of the block that issues to a line (R234, R291). -/
def Work.scalarL2 (w : Work) (line : Nat) (write : Bool) (r : Residency) : Work :=
  w.accessLines [(line, w.dev.blk.place.scalarGroup)] write r

/-- An access of footprint `f` bytes with a hint bypasses allocation (R59, R235). -/
def Block.residency (b : Block) (hint : BitVec 1) (f : Nat) : Residency :=
  { bypass := hint == 1#1 || decide (b.csr.bypassth.toNat < f), low := false }

end Sys2Proof.Machine
end

