-- ==== Sys2Proof/Machine/Holders.lean ====
section
/-! DEFINITION. Who holds a line beside its home, and what an access must wait for there (R240, R244, R245, R380,
R386). -/
namespace Sys2Proof.Machine

/-- The state of a line's metadata (R244). -/
def metaState (m : BitVec 16) : Nat := (m.extractLsb' 0 3).toNat

/-- The party or group marks of a line's metadata (R244). -/
def metaParty (m : BitVec 16) : Nat := (m.extractLsb' 3 10).toNat

/-- Metadata with a state and party; copies and poison stand. -/
def metaWith (m : BitVec 16) (st party : Nat) : BitVec 16 :=
  m.extractLsb' 13 3 ++ BitVec.ofNat 10 party ++ BitVec.ofNat 3 st

/-- SC with every group marked, and poison: what unreadable metadata read as (R245). -/
def metaLost (m : BitVec 16) : BitVec 16 := metaWith (m ||| 0x8000#16) 4 1023

/-- The line's metadata meet an uncorrectable error in DRAM, whose ECC covers them with the data (R244, R245). -/
def Work.metaBad (w : Work) (line : Nat) : Bool :=
  regionOf (line * 128) == 0 && w.dev.unc.upsets.any fun u => u.fatal && u.loc == .line line false

/-- Metadata as the home reads it (R244, R245): state 6 or 7, or an error, is SC with every group marked and the
poison bit set; the home die's copy bit is ignored. -/
def Work.homeMeta (w : Work) (line : Nat) : BitVec 16 :=
  let m := w.meta line
  let m := if m.extractLsb' 13 2 = 0 then m
    else m &&& ~~~(BitVec.ofNat 16 (2 ^ (13 + w.homeDie (line * 128))))
  if metaState m ≥ 6 || w.metaBad line then metaLost m else m

/-- The devices of the marked groups: group g covers 103g to 103g + 102 (R244). -/
def groupDevices (marks self : Nat) : List Nat :=
  (List.range 1024).filter fun d => marks.testBit (d / 103) && d != self

/-- The group mark of a device (R244). -/
def groupOf (dev : Nat) : Nat := 2 ^ (dev / 103)

/-- The remote devices that must answer before the home may serve: holders for a read, every party for a
write (R245). -/
def Work.remotes (w : Work) (line : Nat) (write : Bool) : List Nat :=
  let m := w.homeMeta line
  match metaState m with
  | 0 => []
  | 1 | 2 | 5 => [metaParty m]
  | 3 => if write then [metaParty m] else []
  | _ => if write then groupDevices (metaParty m) w.dev.fw.deviceId else []

/-- Sends RECALL to a holder, or INV to a sharer, with the tag of a transaction (R245, R386). -/
def Work.callBack (w : Work) (line tag : Nat) (hold : Bool) (devs : List Nat) : Work :=
  devs.foldl (fun w d => w.post (plainMsg (if hold then .recall else .inv) d tag (line % 2 ^ 42)) line) w

/-- The holder states E, M and O (R244). -/
def heldState (st : Nat) : Bool := st == 1 || st == 2 || st == 5

/-- Starts the home transaction of a line for `kind` (R245). -/
def Work.startTxn (w : Work) (line : Nat) (write : Bool) (kind : TxnKind) : Work :=
  let devs := w.remotes line write
  let (tag, d) := w.dev.takeTag
  let t : Txn := { line := line, kind := kind, tag := tag, awaiting := devs, wbFrom := none }
  let l := d.link
  ({ w with dev := { d with link := { l with txns := l.txns ++ [t] } } }).callBack line tag
    (heldState (metaState (w.homeMeta line))) devs

/-- Requires that the home may serve the line: no pending transaction, no copy to a spare (R240), no switch of its page
(R286), no remote party in the way, and, for a write, BIRsp for a line of the host window (R245, R380). Else what is
needed is sent and the access waits. -/
def Work.claim (w : Work) (line : Nat) (write : Bool) : Bool × Work :=
  if w.dev.link.txns.any (·.line == line) || w.onCopying line || w.dev.stalled line then (false, w)
  else if write && !w.hostFree line then (false, w.snoopHost line)
  else if w.remotes line write = [] then (true, w)
  else (false, w.startTxn line write .local_)

/-! ## Errors of lines -/

/-- An uncorrectable error that the cells of a line hold (R195), for a line of the capacity tier a response that CXL
marks as poisoned (R243). -/
def Work.upsetAt (w : Work) (line : Nat) : Option Upset :=
  w.dev.unc.upsets.find? fun u => u.fatal && (u.loc == .line line true || u.loc == .line line false)

/-- An error-log record of a line's error (R219): level L2 or HBM4E, its slice or stack. -/
def Work.logLine (w : Work) (line kind syn : Nat) (inL2 : Bool) : Work :=
  let pa := line * 128
  let n := w.dev.fresh
  let w := { w with dev := { w.dev with fresh := n + 1 } }
  let row := Config.freeChoice n % 2 ^ 32
  if inL2 then w.errLog 3 kind (w.homeSlice pa) row pa syn 0
  else w.errLog 4 kind (w.locate (plOfPa pa) (pa % 2 ^ 42)).stack row pa syn 0

/-- The home sets the poison bit of a line whose read met an uncorrectable error (R195), one in DRAM having hit its
metadata too (R245), and its controller logs the error; a lost CXL read is over (R388). -/
def Work.noteUpset (w : Work) (line : Nat) : Work :=
  match w.upsetAt line with
  | none =>
    if w.dev.link.lost.contains line then
      { w with dev := { w.dev with link := { w.dev.link with lost := w.dev.link.lost.erase line } } }
    else w
  | some u =>
    let c := w.dev.unc
    let inL2 := decide (u.loc = UpsetAt.line line true)
    let m := w.meta line
    (({ w with dev := { w.dev with unc := { c with upsets := c.upsets.filter (· != u) } } }).putMeta line
      (if inL2 || regionOf (line * 128) != 0 then m ||| 0x8000#16 else metaLost m)).logLine line 1 u.syndrome.toNat inL2

/-- A read corrects the single-bit errors of its lines (R215). -/
def Work.correct (w : Work) (lines : List Nat) : Work :=
  lines.foldl (fun w line =>
    match w.dev.unc.upsets.find? fun u => !u.fatal && (u.loc == .line line true || u.loc == .line line false) with
    | none => w
    | some u =>
      let c := w.dev.unc
      ({ w with dev := { w.dev with unc := { c with upsets := c.upsets.filter (· != u) } } }).logLine line 0
        u.syndrome.toNat (decide (u.loc = UpsetAt.line line true))) w

end Sys2Proof.Machine
end

