-- ==== Sys2Proof/Machine/Translate.lean ====
section
/-! DEFINITION. Translation: the walk, the entry check, the rights, the units that hold translations
(R349 to R355). -/
namespace Sys2Proof.Machine

/-- How an access uses a page (R350). -/
inductive Access where
  | read | write | atomic | fetch
  deriving DecidableEq, Repr

/-- Who translates: core and part of its unit, ASID, root and privilege level. -/
structure Space where
  core : Nat
  unit : TlbUnit
  asid : Nat
  root : Nat
  level : Level
  deriving DecidableEq, Repr

/-- The block's own space as a part of its core's unit uses it (R348, R353). -/
def Block.spaceOf (b : Block) (u : TlbUnit) : Space :=
  { core := b.place.core, unit := u, asid := b.id.asid, root := b.id.root, level := b.ps.pl }

/-- The stream registers of the block's partition: the scalar path's, for which an agent of a walker has the walker's, and
the lane memory pipe's (R353). -/
def Block.scalarUnit (b : Block) : TlbUnit := if isAgent b.id.key then .walker else .scalar b.place.part
def Block.laneUnit (b : Block) : TlbUnit := .lane b.place.part

/-- The space of the block's fetches and scalar accesses. -/
def Block.space (b : Block) : Space := b.spaceOf b.scalarUnit

/-- The rights of a leaf (R350). -/
def Leaf.allows (l : Leaf) (lv : Level) (a : Access) : Bool :=
  (l.u || lv != .user) &&
    (match a with
     | .read => l.r
     | .write => l.w
     | .atomic => l.r && l.w
     | .fetch => l.x)

/-- The lowest VA bit of each level's index (R349). -/
def levelShift (l : Nat) : Nat :=
  match l with
  | 0 => 39
  | 1 => 30
  | 2 => 21
  | _ => 16

/-- The index of a VA at a level (R349). -/
def levelIndex (l va : Nat) : Nat := va / 2 ^ levelShift l % (if l = 3 then 32 else 512)

/-- The kind a leaf must have at a level (R349, R350). -/
def leafKind (l : Nat) : Nat :=
  match l with
  | 1 => 3
  | 2 => 2
  | 3 => 1
  | _ => 4

/-- Bits shown as zero within a region's addresses (R227). -/
def regionBitsOk (pa : Nat) : Bool :=
  match regionOf pa with
  | 0 => pa / 2 ^ 42 == 0
  | 1 => pa % 2 ^ 60 / 2 ^ 43 == 0
  | 2 => pa % 2 ^ 60 / 2 ^ 52 == 0
  | 3 => pa % 2 ^ 60 / 2 ^ 59 == 0
  | _ => false

def memType (n : Nat) : MemType :=
  match n with
  | 0 => .normal
  | 1 => .wc
  | 2 => .device
  | _ => .strong

/-- The entry check of a leaf (R351, items 1 to 8). -/
def Work.leaf (w : Work) (level e entry : Nat) : Option Leaf :=
  let bit (i : Nat) := e.testBit i
  let base := e / 2 ^ 16 % 2 ^ 48 * 2 ^ 16
  let size := 2 ^ levelShift level
  let pl := BitVec.ofNat 32 (e / 2 ^ 64)
  let type := memType (e / 128 % 4)
  let scope := e / 4096 % 4
  let kindOk := e / 2 % 4 == leafKind level
  let reservedOk := !bit 15 && e / 2 ^ 96 == 0 && regionBitsOk base
  let alignOk := base % size == 0
  let placeOk := match regionOf base with
    | 0 => placementOk pl && plClass pl != 5 && w.backed pl (base + size - 1)
    | 1 => pl == 5 && w.dev.fw.covers (base % 2 ^ 60) size
    | 2 | 3 => pl == 0
    | _ => false
  let comprOk := !bit 11 ||
    (size == 65536 && regionOf base == 0 && plClass pl == 0 && type != .device && type != .strong)
  let scopeOk := scope == 0 || (scope == 1 && regionOf base == 0)
  if kindOk && reservedOk && alignOk && placeOk && comprOk && scopeOk then
    some { base := if regionOf base = 0 then hbmPa pl base else base, size := size, pl := pl,
           r := bit 3, w := bit 4, x := bit 5, u := bit 6, type := type, idem := bit 9,
           hostShared := bit 10, compressed := bit 11, domain := scope == 1, migrating := bit 14,
           entry := entry }
  else none

/-- The entry check of a table pointer (R350, R351): the next table's address, with the bits that R227 shows as zero
zero. -/
def pointer (level e : Nat) : Option Nat :=
  let p := e / 2 ^ 64
  if level < 3 && e % 2 ^ 64 == 1 && p % (if level = 2 then 512 else 8192) == 0 &&
      (p / 2 ^ 49 == 0 || (regionOf p == 1 && regionBitsOk p)) then
    some p
  else none

/-- The read of an entry's line fails (R351, item 9). -/
def Work.lineBad (w : Work) (line : Nat) : Bool :=
  w.linePoison line || w.deadLine line || w.dev.unc.upsets.any fun u =>
    u.fatal && (u.loc == .line line true || u.loc == .line line false)

/-- What a walk finds; `busy` is an entry whose line is still held elsewhere (R245). -/
inductive Found where
  | leaf (l : Leaf)
  | fault
  | busy
  deriving DecidableEq, Repr

/-- A pointer that the core's walk cache holds (R353). -/
def Work.cachedTable (w : Work) (sp : Space) (level va : Nat) : Option Nat :=
  (w.dev.unc.walks.find? fun e => e.core == sp.core && e.asid == sp.asid && e.level == level &&
    e.path == va / 2 ^ levelShift level).map (·.table)

/-- The pointers that a core's walk cache has room for (R353). -/
def walkEntries : Nat := 64

/-- A walk leaves its pointer in the core's walk cache, where the oldest one goes (R353). -/
def Work.cacheTable (w : Work) (sp : Space) (level va table : Nat) : Work :=
  let u := w.dev.unc
  let e : WalkEntry := { core := sp.core, asid := sp.asid, level := level,
                         path := va / 2 ^ levelShift level, table := table }
  let mine := (u.walks.filter (·.core == sp.core)).take (walkEntries - 1)
  { w with dev := { w.dev with unc := { u with walks := e :: mine ++ u.walks.filter (·.core != sp.core) } } }

/-- The record of an entry's line that cannot be read (R219, R351, item 9). -/
def Work.logEntry (w : Work) (line : Nat) : Work :=
  if w.linePoison line then w.logLine line 1 0 true
  else if w.deadLine line then w.logLine line 1 0 false
  else w.noteUpset line

/-- The walk from a level's table (R349, R354), each entry read at its line's home (R245), on a page that has moved at the
new one (R286); `fuel` is the number of levels left. -/
def Work.walk (w : Work) (sp : Space) (va : Nat) (fuel level table : Nat) : Found × Work :=
  match fuel with
  | 0 => (.fault, w)
  | f + 1 =>
    match w.cachedTable sp level va with
    | some t => w.walk sp va f (level + 1) t
    | none =>
      let pa := w.redirect (table + 16 * levelIndex level va)
      match w.claim (lineOf pa) false with
      | (false, w) => (.busy, w)
      | (true, w) =>
        let w := w.homeL2 (lineOf pa) .plain
        if w.lineBad (lineOf pa) then (.fault, w.logEntry (lineOf pa))
        else
          let e := w.le pa 16
          if e % 2 == 0 then (.fault, w)
          else match pointer level e with
            | some t => (w.cacheTable sp level va t).walk sp va f (level + 1) t
            | none =>
              match w.leaf level e pa with
              | some l => (.leaf l, w)
              | none => (.fault, w)

/-- The page under which a part of the unit holds a translation: the gather TLB by its 64 KiB granules (R353). -/
def TlbUnit.page (u : TlbUnit) (l : Leaf) (va : Nat) : Nat :=
  if u = .gather then va / 65536 * 65536 else va / l.size * l.size

/-- A translation that the part of the core's unit holds (R353). -/
def Work.cached (w : Work) (sp : Space) (va : Nat) : Option Leaf :=
  (w.dev.unc.tlb.find? fun e => e.core == sp.core && e.unit == sp.unit && e.asid == sp.asid &&
    sp.unit.page e.leaf va == e.page).map (·.leaf)

/-- The bank of the gather TLB for a page, and its entries (R193, R353). -/
def gatherBank (page : Nat) : Nat := page / 65536 % 16
def gatherEntries : Nat := 32

/-- What a new translation leaves beside it (R353): a stream register holds one, a bank of the gather TLB 32, of which the
oldest goes. -/
def keptEntries (e : TlbEntry) (es : List TlbEntry) : List TlbEntry :=
  let mine (x : TlbEntry) : Bool := x.core == e.core && x.unit == e.unit &&
    (e.unit != .gather || gatherBank x.page == gatherBank e.page)
  (if e.unit = .gather then (es.filter mine).take (gatherEntries - 1) else []) ++ es.filter fun x => !mine x

/-- Translates a virtual address, through what the part of the core's unit holds and else by a walk (R349, R353,
R354). -/
def Work.translate (w : Work) (sp : Space) (va : Nat) : Found × Work :=
  if 2 ^ 48 ≤ va then (.fault, w)
  else match w.cached sp va with
    | some l => (.leaf l, w)
    | none =>
      match w.walk sp va 4 0 sp.root with
      | (.leaf l, w') =>
        let u := w'.dev.unc
        let e : TlbEntry :=
          { core := sp.core, unit := sp.unit, asid := sp.asid, page := sp.unit.page l va, leaf := l }
        (.leaf l, { w' with dev := { w'.dev with unc := { u with tlb := e :: keptEntries e u.tlb } } })
      | r => r

/-- The physical address of a VA in a leaf's page. -/
def Leaf.pa (l : Leaf) (va : Nat) : Nat := l.base + va % l.size

/-- The virtual page of a held translation. -/
def TlbEntry.base (e : TlbEntry) : Nat := e.page / e.leaf.size * e.leaf.size

/-- Removes translations from every unit of the device (R355): those whose ASID `hit`
names and whose page `covers` names. -/
def Uncore.invalidate (u : Uncore) (hit : Nat → Bool) (covers : Nat → Nat → Bool) : Uncore :=
  { u with
    tlb := u.tlb.filter fun e => !(hit e.asid && covers e.base e.leaf.size),
    walks := u.walks.filter fun e =>
      !(hit e.asid && covers (e.path * 2 ^ levelShift e.level) (2 ^ levelShift e.level)) }

/-- Shoots down one page of one page-table entry in every core (R286). -/
def Uncore.shootdown (u : Uncore) (entry : Nat) : Uncore :=
  { u with tlb := u.tlb.filter fun e => e.leaf.entry != entry }

/-! ## The pages of a physical address -/

/-- The entries of a table in which memory lists a byte: every other one is zero, and so not valid. -/
def Work.listedIn (w : Work) (table n : Nat) : List Nat :=
  (((w.jnl ++ w.mem).filter fun c => table ≤ c.1 && c.1 < table + 16 * n).map fun c => (c.1 - table) / 16).eraseDups

/-- The leaves under a level's table (R349 to R351). -/
def Work.leavesIn (w : Work) (fuel level table : Nat) : List Leaf :=
  match fuel with
  | 0 => []
  | f + 1 => (w.listedIn table (if level = 3 then 32 else 512)).flatMap fun i =>
    let pa := w.redirect (table + 16 * i)
    let e := w.le pa 16
    if e % 2 == 0 then []
    else match pointer level e with
      | some t => w.leavesIn f (level + 1) t
      | none => (w.leaf level e pa).toList

/-- The page tables of the contexts whose descriptors are valid (R348). -/
def Work.roots (w : Work) : List Nat :=
  let desc (i : Nat) : Nat := w.dev.fw.ctxTable + 64 * i
  (((w.listedIn w.dev.fw.ctxTable (4 * 4096)).map (· / 4)).eraseDups.filter fun i => (w.byte (desc i + 12)).toNat == 1).map
    fun i => w.le (desc i) 8

/-- Some page that holds a physical address has a property (R350): as a unit holds its translation, or as the tables of a
context give it. -/
def Work.onPage (w : Work) (pa : Nat) (p : Leaf → Bool) : Bool :=
  let hit (l : Leaf) : Bool := l.base ≤ pa && pa < l.base + l.size && p l
  w.dev.unc.tlb.any (fun e => hit e.leaf) || w.roots.any fun t => (w.leavesIn 4 0 t).any hit

end Sys2Proof.Machine
end

