-- ==== Sys2Proof/Machine/Fetch.lean ====
section
/-! DEFINITION. Time, fault batches of a block, and fetch (R53 to R55, R121, R134 to R136, R372, R376). -/
namespace Sys2Proof.Machine

/-! ## Time -/

/-- A free number of clocks passes (R36, R372), one at least after an access that comes last in its clock (R245, R248);
log entry 2. -/
def Dev.tick (d : Dev) : Dev :=
  let n := Config.stepClocks d.fresh
  { d.elapse (if d.late then n + 1 else n) with fresh := d.fresh + 1 }

def State.tick (s : State) : State := { s with dev := s.dev.tick }

/-! ## Fault batches of a block -/

/-- A FAULT_BATCH record for the block that issues (R344). -/
def Block.batchRec (b : Block) (pages : List Nat) (one : Bool) (flt : Word) : Rec :=
  { kind := .faultBatch, pages := pages.length, onePage := one, engine := false,
    ctxid := b.id.ctxid, lid := b.id.key.lid, bid := b.id.logical.toNat,
    rest := natLe 8 b.pc.toNat ++ natLe 8 flt.toNat ++ natLe 8 0 ++ natLe 8 0 ++
      pages.flatMap (natLe 8 ·) }

/-- The 64 KiB page of a virtual address as a batch names it (R344). -/
def pageOf (va : Nat) : Nat := va / 65536 * 65536

/-- Sends a batch for the block that issues; none at a full queue (R345). -/
def Work.openBatch (w : Work) (fetch : Bool) (pages : List Nat) (one : Bool) (elem : Nat)
    (flt va : Word) : Option (BlockBatch × Work) :=
  let b := w.dev.blk
  (w.sendBatch b.id.fn (.block b.id.key) (b.batchRec pages one flt)).map fun (id, w') =>
    ({ id := id, fetch := fetch, elem := elem, flt := flt, va := va, pc := b.pc }, w')

/-- Sends a batch on which the block's instruction then waits; at a full queue nothing happens and
the block stays at its fault point (R345). -/
def Work.blockBatch (w : Work) (fetch : Bool) (pages : List Nat) (one : Bool) (elem : Nat)
    (flt va : Word) : Work :=
  match w.openBatch fetch pages one elem flt va with
  | none => w
  | some (bb, w') =>
    let w' := w'.clearBatch
    { w' with dev := { w'.dev with blk := { w'.dev.blk with batch := some bb } } }

/-! ## Fetch -/

/-- What the block that issues does next: run an instruction, or the state after the fetch ended
otherwise. -/
inductive Move where
  | run (i : Instr) (s : State)
  | idle (s : State)

/-- The word of a loop-capture buffer at an address (R135). -/
def LoopBuf.at (l : LoopBuf) (pc : Word) : Option Insn :=
  (l.words.find? fun e => e.1 == pc.toNat).map (·.2)

/-- The fetched word runs, or traps with ILLEGAL (R53). -/
def decoded (s : State) (w : Insn) : Move :=
  match decode w with
  | some i => .run i s
  | none => .idle (s.takeTrap .illegal 0 0 none)

/-- What stands for a slice in the reads by which code comes from a peer; they travel none (R291). -/
def codeSlice : Nat := 18

/-- Forgets the code that the block that issues has read of peers for an instruction before this one. -/
def Dev.dropCode (d : Dev) : Dev :=
  let old (r : Req) : Bool := r.slice == codeSlice && r.by_ == some d.blk.id.key && r.elem != some d.blk.pc.toNat
  if d.link.reqs.any old then
    { d with link := { d.link with reqs := d.link.reqs.filter fun r => !old r } }
  else d

/-- The code word of a peer's line (R121, R227, R386): the answer to an UC_RD, which is sent first; it serves until
the block fetches at another address. DESIGN CHOICE, log entry 62: the answer of a peer that is declared lost (R388) holds
no bytes, and the word 0 runs, which is ILLEGAL. -/
def Work.peerCode (w : Work) (pa : Nat) : Option Nat × Work :=
  let d := w.dev.dropCode
  match d.link.reqs.find? fun r => r.slice == codeSlice && r.line == lineOf pa && r.by_ == some d.blk.id.key with
  | some r => (r.answer.map fun a => leNat ((a.1.drop (pa % 128)).take 4), { w with dev := d })
  | none =>
    let (tag, d) := d.takeTag
    let r : Req := { tag := tag, kind := .read, peer := peerOf pa, line := lineOf pa, by_ := some d.blk.id.key,
                     slice := codeSlice, elem := some d.blk.pc.toNat, expect := none, answer := none }
    (none, ({ w with dev := { d with link := { d.link with reqs := d.link.reqs ++ [r] } } }).post
      (plainMsg .ucRd (peerOf pa) tag (peerLine pa)) (lineOf pa))

/-- The code word at a physical address of an executable page, read at its line's home (R121, R245); log entry 62. -/
def Work.codeWord (w : Work) (pa : Nat) : Option Nat × Work :=
  let pa := w.redirect pa
  if regionOf pa = 3 then w.peerCode pa
  else match w.claim (lineOf pa) false with
    | (false, w) => (none, w)
    | (true, w) => (some (w.le pa 4), w.accessL2 (lineOf pa) false .plain)

/-- Fetches through translation (R121): a breach of rights traps with FETCH_FAULT (R350); a translation
fault sends a one-page batch and the block waits. -/
def fetchWord (s : State) : Move :=
  let b := s.dev.blk
  match (Work.start s).translate b.space b.pc.toNat with
  | (.leaf l, w) =>
    if l.allows b.ps.pl .fetch then
      match w.codeWord (l.pa b.pc.toNat) with
      | (some v, w) => decoded (w.settle s) (BitVec.ofNat 32 v)
      | (none, w) => .idle (({ w with dev := w.dev.held }).settle s)
    else .idle ((w.settle s).takeTrap .fetchFault 0 0 none)
  | (.busy, w) => .idle (({ w with dev := w.dev.held }).settle s)
  | (.fault, w) =>
    .idle ((w.blockBatch true [pageOf b.pc.toNat] true 0 b.csr.fltinfo b.pc).settle s)

/-- Fetch of the block that issues: from the loop-capture buffer where it holds the word, else from
memory; a batch that an earlier fetch sent is waited for (R121). DESIGN CHOICE, log entry 95: a fetch batch that is answered
unresolvable, of which R121 does not speak, kills the block with FRAME_EXHAUSTED. -/
def State.fetch (s : State) : Move :=
  let b := s.dev.blk
  let go (s : State) : Move :=
    match s.dev.blk.loop.bind (·.at s.dev.blk.pc) with
    | some w => decoded { s with dev := if b.flight.isSome then s.dev else s.dev.countFor 13 1 } w
    | none => fetchWord s
  match b.batch with
  | none => go s
  | some bb =>
    if bb.fetch then
      match s.dev.answer bb.id with
      | none => .idle { s with dev := s.dev.held }
      | some .refused => .idle (((Work.start s).clearBatch.settle s).takeTrap .fetchFault 0 0 none)
      | some .unresolvable =>
        .idle (((Work.start s).clearBatch.settle s).takeTrap .frameExhausted 0 0 none)
      | some .serviced | some .onePage => go ((Work.start s).clearBatch.settle s)
    else go s

end Sys2Proof.Machine
end

