-- ==== Sys2Proof/Machine/Numbers.lean ====
section
/-! DEFINITION. Numbers: formats, exact values, rounding, saturation, exact arithmetic, promotion (R85 to
R86, R91 to R93, R102 to R106, R108 to R111).

An exact magnitude is m × 2^e; a sticky mark says that the true magnitude lies strictly between
m × 2^e and (m + 1) × 2^e. -/
namespace Sys2Proof.Machine

/-! ## Tags -/

/-- Tag of a code (R140); codes 0 and 18 and above name none. -/
def Tag.ofCode (n : Nat) : Tag :=
  match n with
  | 1 => .fp64
  | 2 => .fp32
  | 3 => .bf16
  | 4 => .fp16
  | 5 => .e4m3
  | 6 => .e5m2
  | 7 => .e3m2
  | 8 => .e2m3
  | 9 => .e2m1
  | 10 => .int4
  | 11 => .uint4
  | 12 => .int8
  | 13 => .uint8
  | 14 => .int16
  | 15 => .uint16
  | 16 => .int32
  | 17 => .uint32
  | _ => .none

def Tag.code (t : Tag) : Nat :=
  match t with
  | .none => 0
  | .fp64 => 1
  | .fp32 => 2
  | .bf16 => 3
  | .fp16 => 4
  | .e4m3 => 5
  | .e5m2 => 6
  | .e3m2 => 7
  | .e2m3 => 8
  | .e2m1 => 9
  | .int4 => 10
  | .uint4 => 11
  | .int8 => 12
  | .uint8 => 13
  | .int16 => 14
  | .uint16 => 15
  | .int32 => 16
  | .uint32 => 17

/-- Element width in bits (R140). -/
def Tag.width (t : Tag) : Nat :=
  match t with
  | .none => 8
  | .fp64 => 64
  | .fp32 | .int32 | .uint32 => 32
  | .bf16 | .fp16 | .int16 | .uint16 => 16
  | .e4m3 | .e5m2 | .int8 | .uint8 => 8
  | .e3m2 | .e2m3 => 6
  | .e2m1 | .int4 | .uint4 => 4

/-- The narrow tags, whose tiles hold MX blocks (R85, R140). -/
def Tag.narrow (t : Tag) : Bool :=
  match t with
  | .e4m3 | .e5m2 | .e3m2 | .e2m3 | .e2m1 => true
  | _ => false

/-- The signed integer tags (R91). -/
def Tag.signed (t : Tag) : Bool :=
  match t with
  | .int4 | .int8 | .int16 | .int32 => true
  | _ => false

/-- The integer tags (R91). -/
def Tag.isInt (t : Tag) : Bool :=
  match t with
  | .int4 | .uint4 | .int8 | .uint8 | .int16 | .uint16 | .int32 | .uint32 => true
  | _ => false

/-- The floating tags. -/
def Tag.isFloat (t : Tag) : Bool := t != .none && !t.isInt

/-- FP6 elements are packed four to 24 bits (R87). -/
def Tag.isFp6 (t : Tag) : Bool := t == .e3m2 || t == .e2m3

/-- FP16 and BF16, whose tiles hold an origin word (R97). -/
def Tag.isHalf (t : Tag) : Bool := t == .fp16 || t == .bf16

/-! ## Formats and exact values -/

/-- What the top of a format's range holds (R85). -/
inductive Top where
  | ieee | e4m3 | finite
  deriving DecidableEq, Repr

/-- A floating format (R85). -/
structure Fmt where
  ebits : Nat
  mbits : Nat
  bias : Nat
  top : Top
  deriving DecidableEq, Repr

def Fmt.double : Fmt := { ebits := 11, mbits := 52, bias := 1023, top := .ieee }
def Fmt.single : Fmt := { ebits := 8, mbits := 23, bias := 127, top := .ieee }

/-- The format of a floating tag (R85); an integer tag has none and reads as FP32 where asked. -/
def Tag.fmt (t : Tag) : Fmt :=
  match t with
  | .fp64 => Fmt.double
  | .bf16 => { ebits := 8, mbits := 7, bias := 127, top := .ieee }
  | .fp16 => { ebits := 5, mbits := 10, bias := 15, top := .ieee }
  | .e4m3 => { ebits := 4, mbits := 3, bias := 7, top := .e4m3 }
  | .e5m2 => { ebits := 5, mbits := 2, bias := 15, top := .ieee }
  | .e3m2 => { ebits := 3, mbits := 2, bias := 3, top := .finite }
  | .e2m3 => { ebits := 2, mbits := 3, bias := 1, top := .finite }
  | .e2m1 => { ebits := 2, mbits := 1, bias := 1, top := .finite }
  | _ => Fmt.single

/-- The sign bit of a format. -/
def Fmt.signBit (f : Fmt) : Nat := 2 ^ (f.ebits + f.mbits)

/-- The pattern of the largest finite value (R85). -/
def Fmt.maxPat (f : Fmt) : Nat :=
  match f.top with
  | .ieee => (2 ^ f.ebits - 1) * 2 ^ f.mbits - 1
  | .e4m3 => 2 ^ (f.ebits + f.mbits) - 2
  | .finite => 2 ^ (f.ebits + f.mbits) - 1

/-- The pattern of infinity where the format has one. -/
def Fmt.infPat (f : Fmt) : Nat := (2 ^ f.ebits - 1) * 2 ^ f.mbits

/-- The canonical NaN (R85): sign clear, the top mantissa bit; 0x7F in E4M3; zero where there is none. -/
def Fmt.nanPat (f : Fmt) : Nat :=
  match f.top with
  | .ieee => f.infPat + 2 ^ (f.mbits - 1)
  | .e4m3 => 2 ^ (f.ebits + f.mbits) - 1
  | .finite => 0

/-- A value: a plain NaN, an infinity, or an exact or sticky magnitude with its sign. -/
inductive Num where
  | nan
  | inf (neg : Bool)
  | fin (neg : Bool) (m : Nat) (e : Int) (sticky : Bool)
  deriving DecidableEq, Repr

/-- Zero of a sign. -/
def Num.zero (neg : Bool) : Num := .fin neg 0 0 false

/-- An integer's value. -/
def Num.ofInt (v : Int) : Num := .fin (v < 0) v.natAbs 0 false

def Num.isNan (x : Num) : Bool :=
  match x with
  | .nan => true
  | _ => false

/-- The value of a pattern (R85, R86). -/
def Fmt.value (f : Fmt) (p : Nat) : Num :=
  let neg := p / f.signBit % 2 == 1
  let mag := p % f.signBit
  let e := mag / 2 ^ f.mbits
  let m := mag % 2 ^ f.mbits
  if mag > f.maxPat then (if f.top == .ieee && m == 0 then .inf neg else .nan)
  else if e == 0 then .fin neg m (1 - (f.bias : Int) - f.mbits) false
  else .fin neg (2 ^ f.mbits + m) ((e : Int) - f.bias - f.mbits) false

/-! ## Rounding -/

/-- The rounding modes (R104); SR with its 32 random bits (R106). -/
inductive Round where
  | rne | rtz | rup | rdn | rna
  | sr (bits : Nat)
  deriving DecidableEq, Repr

/-- The mode of an rm code 0 to 4 (R104). -/
def Round.ofCode (n : Nat) : Round :=
  match n with
  | 0 => .rne
  | 1 => .rtz
  | 2 => .rup
  | 3 => .rdn
  | _ => .rna

/-- Number of bits of `n`: the place above its highest one; `fuel` bounds the search. -/
def bitLen_ (n : Nat) : Nat := if n = 0 then 0 else Nat.log2 n + 1

/-- Whether the magnitude n + (rem + sticky) / 2^s goes up (R104, R106). -/
def goesUp (r : Round) (neg : Bool) (n rem s : Nat) (sticky : Bool) : Bool :=
  let exact := rem == 0 && !sticky
  let half := 2 ^ (s - 1)
  match r with
  | .rne => rem > half || (rem == half && (sticky || n % 2 == 1))
  | .rtz => false
  | .rup => !exact && !neg
  | .rdn => !exact && neg
  | .rna => rem ≥ half
  | .sr bits => !exact && rem * 2 ^ 32 / 2 ^ s + bits ≥ 2 ^ 32

/-- The integer magnitude nearest to m × 2^(e − q) under a mode: the rounding step of round_to. -/
def roundShift (r : Round) (neg : Bool) (m : Nat) (e q : Int) (sticky : Bool) : Nat :=
  if q ≤ e then m * 2 ^ (e - q).toNat
  else
    let s := (q - e).toNat
    let n := m / 2 ^ s
    if goesUp r neg n (m % 2 ^ s) s sticky then n + 1 else n

/-- The overflow value of a finite magnitude above the largest finite one (R104). -/
def Fmt.overflow (f : Fmt) (r : Round) (neg : Bool) : Nat :=
  let up := match r with
    | .rtz => false
    | .rup => !neg
    | .rdn => neg
    | _ => true
  match f.top with
  | .ieee => if up then f.infPat else f.maxPat
  | .e4m3 => if up then f.maxPat + 1 else f.maxPat
  | .finite => f.maxPat

/-- round_to of R104 outside an MX block: the pattern. -/
def Fmt.pack (f : Fmt) (r : Round) (x : Num) : Nat :=
  match x with
  | .nan => f.nanPat
  | .inf neg =>
    (if neg then f.signBit else 0) + (if f.top == .ieee then f.infPat else f.overflow r neg)
  | .fin neg m e sticky =>
    let sign := if neg then f.signBit else 0
    if m = 0 ∧ sticky = false then sign
    else
      let emin : Int := 1 - f.bias
      let top : Int := e + bitLen_ m - 1
      let q := (if top < emin then emin else top) - f.mbits
      let n := roundShift r neg m e q sticky
      let pat := if n < 2 ^ f.mbits then n else (q + f.mbits + f.bias - 1).toNat * 2 ^ f.mbits + n
      if pat > f.maxPat then sign + f.overflow r neg else sign + pat

/-- The pattern is a NaN of the format. -/
def Fmt.isNan (f : Fmt) (p : Nat) : Bool := (f.value p).isNan

/-- sat_to (R10, R105): a value beyond the largest finite one becomes that one; a NaN stands. -/
def Fmt.sat (f : Fmt) (x : Num) : Num :=
  let big : Num := f.value f.maxPat
  match x, big with
  | .inf neg, .fin _ m e _ => .fin neg m e false
  | .fin neg m e st, .fin _ bm be _ =>
    -- compares m × 2^e with the largest finite magnitude
    let k := if e < be then e else be
    let a := m * 2 ^ (e - k).toNat
    let b := bm * 2 ^ (be - k).toNat
    if a > b || (a == b && st) then .fin neg bm be false else x
  | _, _ => x

/-- round_to inside an MX block saturates whatever the mode (R90, R104). -/
def Fmt.packSat (f : Fmt) (r : Round) (x : Num) : Nat :=
  let p := f.pack r (f.sat x)
  if p % f.signBit > f.maxPat then p / f.signBit * f.signBit + f.maxPat else p

/-- round_to, as a value. -/
def Fmt.round (f : Fmt) (r : Round) (x : Num) : Num := f.value (f.pack r x)

/-! ## sr_bits -/

/-- sr_bits of R106. -/
def srBits (seed : Nat) (sid idx : Nat) : Nat :=
  let w32 := 2 ^ 32
  let h := (seed % w32) ^^^ (idx % w32)
  let h := h * 0x9E3779B1 % w32
  let h := h ^^^ (h / 2 ^ 15)
  let h := h ^^^ (seed / w32 % w32) ^^^ (sid % 2 ^ 16 * 2 ^ 16) ^^^ (idx / w32 % 2 ^ 16)
  let h := h * 0x85EBCA6B % w32
  let h := h ^^^ (h / 2 ^ 13)
  let h := h * 0xC2B2AE35 % w32
  h ^^^ (h / 2 ^ 16)

/-! ## Exact arithmetic -/

/-- The signed integer of a magnitude at exponent `k`. -/
def scaledInt (neg : Bool) (m : Nat) (e k : Int) : Int :=
  let v : Int := m * 2 ^ (e - k).toNat
  if neg then -v else v

/-- Exact sum; an exact zero of operands of opposite sign is +0, −0 under RDN (R86). -/
def Num.add (r : Round) (x y : Num) : Num :=
  match x, y with
  | .nan, _ => .nan
  | _, .nan => .nan
  | .inf a, .inf b => if a = b then .inf a else .nan
  | .inf a, _ => .inf a
  | _, .inf b => .inf b
  | .fin nx mx ex _, .fin ny my ey _ =>
    let k := if ex < ey then ex else ey
    let v := scaledInt nx mx ex k + scaledInt ny my ey k
    if v = 0 then
      if mx = 0 ∧ my = 0 ∧ nx = ny then .zero nx else .zero (r == .rdn)
    else .fin (v < 0) v.natAbs k false

def Num.neg (x : Num) : Num :=
  match x with
  | .nan => .nan
  | .inf a => .inf (!a)
  | .fin a m e s => .fin (!a) m e s

def Num.abs (x : Num) : Num :=
  match x with
  | .nan => .nan
  | .inf _ => .inf false
  | .fin _ m e s => .fin false m e s

/-- Exact product. -/
def Num.mul (x y : Num) : Num :=
  match x, y with
  | .nan, _ => .nan
  | _, .nan => .nan
  | .inf a, .inf b => .inf (a != b)
  | .inf a, .fin b m _ _ => if m = 0 then .nan else .inf (a != b)
  | .fin a m _ _, .inf b => if m = 0 then .nan else .inf (a != b)
  | .fin a m e _, .fin b n k _ => .fin (a != b) (m * n) (e + k) false

/-- Exact order of two values that are not NaN: −1, 0 or 1, with −0 equal to +0. -/
def Num.compare (x y : Num) : Int :=
  match x, y with
  | .inf a, .inf b => if a = b then 0 else if a then -1 else 1
  | .inf a, _ => if a then -1 else 1
  | _, .inf b => if b then 1 else -1
  | .fin nx mx ex _, .fin ny my ey _ =>
    let k := if ex < ey then ex else ey
    let a := scaledInt nx mx ex k
    let b := scaledInt ny my ey k
    if a < b then -1 else if b < a then 1 else 0
  | _, _ => 0

def Num.isNeg (x : Num) : Bool :=
  match x with
  | .nan => false
  | .inf a => a
  | .fin a _ _ _ => a

/-- The lesser of two values (R93): NaN against anything is NaN; −0 is less than +0. -/
def Num.min (x y : Num) : Num :=
  if x.isNan || y.isNan then .nan
  else
    let c := x.compare y
    if c < 0 then x else if 0 < c then y else if x.isNeg then x else y

/-- The greater of two values (R93). -/
def Num.max (x y : Num) : Num :=
  if x.isNan || y.isNan then .nan
  else
    let c := x.compare y
    if c < 0 then y else if 0 < c then x else if x.isNeg then y else x

/-- Bits that a quotient, root or function is computed to before its sticky mark. -/
def workBits : Nat := 160

/-- The correctly placed quotient: its magnitude to more than any format's precision, and a sticky
mark. -/
def Num.div (x y : Num) : Num :=
  match x, y with
  | .nan, _ => .nan
  | _, .nan => .nan
  | .inf _, .inf _ => .nan
  | .inf a, .fin b _ _ _ => .inf (a != b)
  | .fin a _ _ _, .inf b => .zero (a != b)
  | .fin a m e _, .fin b n k _ =>
    if n = 0 then (if m = 0 then .nan else .inf (a != b))
    else if m = 0 then .zero (a != b)
    else
      let s := workBits + bitLen_ n
      let q := m * 2 ^ s / n
      .fin (a != b) q (e - k - s) (m * 2 ^ s % n != 0)

/-- The integer square root, bit by bit from bit `k - 1`. -/
def isqrtFrom (n k acc : Nat) : Nat :=
  match k with
  | 0 => acc
  | j + 1 =>
    let t := acc + 2 ^ j
    isqrtFrom n j (if t * t ≤ n then t else acc)

def isqrt (n : Nat) : Nat := isqrtFrom n (bitLen_ n / 2 + 1) 0

/-- Square root: −0 of −0, NaN of a negative value. -/
def Num.sqrt (x : Num) : Num :=
  match x with
  | .nan => .nan
  | .inf a => if a then .nan else .inf false
  | .fin a m e _ =>
    if m = 0 then .zero a
    else if a then .nan
    else
      let s := 2 * workBits + (if (e % 2) = 0 then 0 else 1)
      let v := m * 2 ^ s
      let r := isqrt v
      .fin false r ((e - s) / 2) (r * r != v)

/-- Reciprocal: an infinity of a zero's sign. -/
def Num.recip (x : Num) : Num := Num.div (.fin false 1 0 false) x

/-- Reciprocal square root: +∞ of +0, −∞ of −0, +0 of +∞, NaN of a negative value. -/
def Num.rsqrt (x : Num) : Num :=
  match x with
  | .nan => .nan
  | .inf a => if a then .nan else .zero false
  | .fin a m e _ =>
    if m = 0 then .inf a
    else if a then .nan
    else
      -- 1 / sqrt(m × 2^e) with an even exponent
      let (m, e) := if e % 2 = 0 then (m, e) else (2 * m, e - 1)
      let s := 2 * workBits + 2 * bitLen_ m
      let v := 2 ^ s / m
      let r := isqrt v
      .fin false r (-(e / 2) - (s / 2 : Nat)) (r * r != v || 2 ^ s % m != 0)

/-! ## Integers -/

/-- The value of an integer pattern of `n` bits (R91). -/
def intValue (signed : Bool) (n p : Nat) : Int :=
  let v := p % 2 ^ n
  if signed && v ≥ 2 ^ (n - 1) then (v : Int) - 2 ^ n else v

/-- The pattern of an integer wrapped to `n` bits. -/
def intWrap (n : Nat) (v : Int) : Nat := (v % 2 ^ n).toNat

/-- The range of an integer tag (R91). -/
def Tag.intMin (t : Tag) : Int := if t.signed then -(2 ^ (t.width - 1)) else 0
def Tag.intMax (t : Tag) : Int := if t.signed then 2 ^ (t.width - 1) - 1 else 2 ^ t.width - 1

/-- Clamped to the tag's range (R92). -/
def Tag.clamp (t : Tag) (v : Int) : Int :=
  if v < t.intMin then t.intMin else if t.intMax < v then t.intMax else v

/-- An integer result in an integer tag: wrapped, or clamped (R92, R109). -/
def Tag.ofInt (t : Tag) (sat : Bool) (v : Int) : Nat :=
  intWrap t.width (if sat then t.clamp v else v)

/-- A value rounded to an integer under a mode (R92, R106). -/
def Num.toIntRounded (r : Round) (x : Num) : Int :=
  match x with
  | .fin neg m e st =>
    let n : Int := roundShift r neg m e 0 st
    if neg then -n else n
  | _ => 0

/-- Float to integer (R92): infinities give the ends of the range, a plain NaN gives 0. -/
def Tag.ofNum (t : Tag) (r : Round) (sat : Bool) (x : Num) : Nat :=
  match x with
  | .nan => 0
  | .inf neg => intWrap t.width (if neg then t.intMin else t.intMax)
  | .fin .. => t.ofInt sat (x.toIntRounded r)

/-! ## Promotion -/

/-- The tag of given signedness and width. -/
def intTag (signed : Bool) (w : Nat) : Tag :=
  if signed then (if w ≤ 4 then .int4 else if w ≤ 8 then .int8 else if w ≤ 16 then .int16 else .int32)
  else (if w ≤ 4 then .uint4 else if w ≤ 8 then .uint8 else if w ≤ 16 then .uint16 else .uint32)

/-- The widest of a list of tags, in bits; 0 for none. -/
def widest (ts : List Tag) : Nat := ts.foldl (fun w t => Nat.max w t.width) 0

/-- The promoted type of a set of source tags (R108); none raises TYPE_STATE. -/
def promote (ts : List Tag) : Option Tag :=
  let any (p : Tag → Bool) := ts.any p
  let wide : Tag → Bool := fun t => t == .int32 || t == .uint32
  let mid : Tag → Bool := fun t => t == .int16 || t == .uint16
  let small : Tag → Bool := fun t => t.isInt && t.width ≤ 8
  match ts with
  | [] => none
  | t :: _ =>
    if any (· == .none) then none
    else if ts.all (· == t) && !t.narrow then some t
    else if any (· == .fp64) then some .fp64
    else if any Tag.isFloat then
      if any wide then some .fp64
      else if any mid then some .fp32
      else if any Tag.narrow then some .fp32
      else if any (· == .fp32) then some .fp32
      else if any (· == .bf16) && any (· == .fp16) then some .fp32
      else if any small then (if any (· == .bf16) then some .bf16 else some .fp16)
      else none
    else
      let s := widest (ts.filter Tag.signed)
      let u := widest (ts.filter fun t => t.isInt && !t.signed)
      if u = 0 then some (intTag true s)
      else if s = 0 then some (intTag false u)
      else if u < s then some (intTag true s)
      else if u ≤ 16 then some (intTag true (2 * u))
      else none

/-! ## Values of elements -/

/-- An element as an operation computes on it. -/
inductive Val where
  | num (x : Num)
  | int (v : Int)
  | bad (c : Crumb)
  deriving DecidableEq, Repr

def Val.isNan (v : Val) : Bool :=
  match v with
  | .num x => x.isNan
  | _ => false

def Val.poison (v : Val) : Option Crumb :=
  match v with
  | .bad c => some c
  | _ => none

/-- Promotion of one source value of tag `src` to a type, exact but for a narrow value beyond FP32, which
becomes an infinity (R108). -/
def Val.promoteTo (v : Val) (src t : Tag) : Val :=
  match v with
  | .num (.fin neg m e st) =>
    if src.narrow && m != 0 && (e : Int) + bitLen_ m > 128 then .num (.inf neg) else .num (.fin neg m e st)
  | .num x => .num x
  | .int n => if t.isInt then .int n else .num (Num.ofInt n)
  | .bad c => .bad c

/-- The value of an element pattern of a tag whose block scale is `scale` (R85, R89, R91). -/
def patValue (t : Tag) (scale p : Nat) : Val :=
  if t.isInt then .int (intValue t.signed t.width p)
  else if t.narrow then
    if scale = 255 then .num .nan
    else match t.fmt.value p with
      | .fin neg m e st => .num (.fin neg m (e + ((scale : Int) - 127)) st)
      | x => .num x
  else .num (t.fmt.value p)

end Sys2Proof.Machine
end

