-- ==== Sys2Proof/Machine/Poison.lean ====
section
/-! DEFINITION. The encodings of poison (R95 to R99). -/
namespace Sys2Proof.Machine

/-- The quiet bit and the poison flag of a format's NaN (R95). -/
def Fmt.poisonBase (f : Fmt) : Nat := f.infPat + 2 ^ (f.mbits - 1) + 2 ^ (f.mbits - 2)

/-- The poison pattern of FP64 or FP32 (R95). -/
def Fmt.longPoison (f : Fmt) (c : Crumb) : Nat :=
  f.poisonBase + (if c.merged then 2 ^ (f.mbits - 3) else 0) + c.origin.toNat

/-- The short field and the merge flag of a 16-bit poison under the origin word's origin (R97). -/
def shortOrigin (n base : Nat) (c : Crumb) : Nat × Bool :=
  if c.origin.toNat - base < 2 ^ n then (c.origin.toNat % 2 ^ n, c.merged)
  else (base % 2 ^ n, true)

/-- The poison pattern of FP16 or BF16 (R95, R97). -/
def Fmt.shortPoison (f : Fmt) (base : Nat) (c : Crumb) : Nat :=
  let (s, m) := shortOrigin (f.mbits - 2) base c
  f.poisonBase + s + (if m then f.signBit else 0)

/-- The flag word of a poison block of a narrow format (R95). -/
def flagWord (c : Crumb) : Nat := 2 ^ 21 + (if c.merged then 2 ^ 20 else 0) + c.origin.toNat

/-- The pattern matches the poison encoding of its format (R95, R96); FP64 has bits 48:20 zero. -/
def Fmt.looksPoison (f : Fmt) (p : Nat) : Bool :=
  p % f.signBit / 2 ^ f.mbits == 2 ^ f.ebits - 1 && p.testBit (f.mbits - 1) && p.testBit (f.mbits - 2) &&
    p / 2 ^ 20 % 2 ^ (f.mbits - 23) == 0

/-- The poison of an element, if any. -/
def Elem.crumb (e : Elem) : Option Crumb :=
  match e with
  | .bits _ => none
  | .poison c => some c

/-- The lowest origin among the poison elements (R97, R99). -/
def lowestOrigin (es : List Elem) : Option Nat :=
  es.foldl (fun a e => match e with
    | .bits _ => a
    | .poison c => match a with
      | none => some c.origin.toNat
      | some o => some (Nat.min o c.origin.toNat)) none

/-- pmerge over a list of elements (R98, R99). -/
def mergeElems (es : List Elem) : Option Crumb := es.foldl (fun a e => mergePoison a e.crumb) none

/-- What a 16-bit version keeps of an element's poison (R97). -/
def keepShort (n base : Nat) (e : Elem) : Elem :=
  match e with
  | .bits v => .bits v
  | .poison c =>
    let (s, m) := shortOrigin n base c
    .poison { origin := BitVec.ofNat 20 (base + (s + 2 ^ n - base % 2 ^ n) % 2 ^ n), merged := m }

/-- What an integer version keeps of an element's poison: the origin word's (R99). -/
def keepWord (w : Crumb) (e : Elem) : Elem :=
  match e with
  | .bits v => .bits v
  | .poison _ => .poison w

/-- The poison of a version's elements as its tag can hold it (R95, R97, R99); narrow blocks are made whole
where their scale is chosen (R98). -/
def Tag.keepPoison (t : Tag) (es : List Elem) : List Elem :=
  match lowestOrigin es with
  | .none => es
  | .some base =>
    if t.isHalf then es.map (keepShort (t.fmt.mbits - 2) base)
    else if t.isInt then
      match mergeElems es with
      | .some c => es.map (keepWord c)
      | .none => es
    else es

/-- The bits that poison writes to memory under WRITE in a format of its own element (R270). -/
def Tag.poisonBits (t : Tag) (base : Nat) (c : Crumb) : Nat :=
  if t.isInt then 0
  else if t.isHalf then t.fmt.shortPoison base c
  else t.fmt.longPoison c

/-- The canonical NaN, or zero for an integer tag (R270). -/
def Tag.canon (t : Tag) : Nat := if t.isInt then 0 else t.fmt.nanPat

/-- A sum that is a NaN of operands that are none (R102). -/
def Fmt.sumMakesNan (f : Fmt) (x y : Nat) : Bool :=
  let a := f.value x
  let b := f.value y
  a != .nan && b != .nan && Num.add .rne a b == .nan

/-- add of R278: FP rounds to nearest, integers wrap. -/
def Tag.addBits (t : Tag) (x y : Nat) : Nat :=
  if t.isInt then (x + y) % 2 ^ t.width
  else t.fmt.pack .rne (Num.add .rne (t.fmt.value x) (t.fmt.value y))

end Sys2Proof.Machine
end

