-- ==== Sys2Proof/Machine/TileOps.lean ====
section
/-! DEFINITION. Reading and writing tile and mask versions: storage rows and the row grant, values of
elements, block scales, masked writes, first-generated NaN poison (R42, R43, R89, R90, R97 to R102, R105,
R109, R142 to R145, R149, R152, R158). -/
namespace Sys2Proof.Machine

/-! ## Storage -/

/-- a / b rounded up. -/
def ceilDiv (a b : Nat) : Nat := (a + b - 1) / b

/-- Storage rows of one tile row (R142). -/
def Tag.rowStorage (t : Tag) (cols width : Nat) : Nat :=
  if t.isFp6 then ceilDiv (ceilDiv cols 4 * 24) width else ceilDiv (cols * t.width) width

/-- The grant of a tag on `l` lanes (R141, R216). -/
def Tag.grant (t : Tag) (l : Nat) : Nat :=
  if t.isFp6 then 4 * (128 * l / 24) else 128 * l / t.width

/-- Blocks of a row of a narrow tile (R89). -/
def blocksOf (cols : Nat) : Nat := ceilDiv cols 32

/-- Storage rows of a version, its kept rows with it (R142, R143, R145). -/
def Tile.storage (t : Tile) (width : Nat) : Nat :=
  if t.empty then 0 else (t.rows + t.kept) * t.tag.rowStorage t.cols width

/-- Storage rows of a mask version (R142). -/
def MaskReg.storage (m : MaskReg) (width : Nat) : Nat := ceilDiv m.n width

/-- Storage rows of a tile register: the committed version, an arrived one, and one on its way (R143, R337). -/
def TileReg.storage (t : TileReg) (width : Nat) : Nat :=
  t.ver.storage width + (match t.inbox with
    | .some v => v.storage width
    | .none => 0) + t.coming

/-- Storage rows that a stream queue's slots hold (R340). -/
def StreamQueue.storage (q : StreamQueue) (width : Nat) : Nat :=
  match q.st with
  | .idle => 0
  | _ =>
    let t := Tag.ofCode (q.shape.extractLsb' 0 5).toNat
    q.depth * ((q.shape.extractLsb' 8 11).toNat + 1) *
      t.rowStorage (q.shape.extractLsb' 19 16).toNat width

/-- The storage rows of the grant that are in use (R143). -/
def Block.rowsUsed (b : Block) : Nat :=
  let w := b.place.width
  (b.t.toList.map fun t => t.storage w).sum + ((b.m.toList.drop 1).map fun m => m.storage w).sum +
    (b.queues.toList.map fun q => q.storage w).sum

/-- `n` more storage rows fit the grant (R42, R143); what takes none always fits (R148). -/
def Block.fits (b : Block) (n : Nat) : Bool := n = 0 || b.rowsUsed + n ≤ b.place.rows

/-- Requires room for `n` more storage rows: every older instruction has committed here, so a destination
that does not fit traps (R42). -/
def needRows (n : Nat) : M Unit := do
  if (← getBlk).fits n then pure () else raise .tileSpace

/-! ## Bindings -/

/-- The shape record of a bound tile (R53, order 3). -/
def bound (t : TileNo) : M ShapeRec := do
  match (← getBlk).recOf t with
  | some r => return r
  | none => raise .tileUnbound

def ShapeRec.tag (r : ShapeRec) : Tag := Tag.ofCode r.code.toNat
def ShapeRec.rows (r : ShapeRec) : Nat := r.rowsM1.toNat + 1
def ShapeRec.ncols (r : ShapeRec) : Nat := r.cols.toNat

/-- Elements of a version that the record describes. -/
def ShapeRec.size (r : ShapeRec) : Nat := r.rows * r.ncols

/-- Equal row and column counts (R152). -/
def ShapeRec.sameShape (r q : ShapeRec) : Bool := r.rows == q.rows && r.ncols == q.ncols

/-- Requires that no record is STALE (R149, R152). -/
def freshRecs (rs : List ShapeRec) : M Unit := raiseIf (rs.any (·.stale)) .shapeStale

/-- Requires that every record has d's shape (R152). -/
def sameShapes (d : ShapeRec) (rs : List ShapeRec) : M Unit :=
  raiseIf (rs.any fun r => !r.sameShape d) .shapeMismatch

/-! ## Reading -/

/-- `xs` cut or padded to `n` entries. -/
def padTo {α : Type} (d : α) (n : Nat) (xs : List α) : List α :=
  xs.take n ++ List.replicate (n - xs.length) d

/-- The elements of a committed version; an empty tile reads as zero (R145). -/
def Tile.elements (t : Tile) (r : ShapeRec) : List Elem :=
  if t.empty then List.replicate r.size (.bits 0) else padTo (.bits 0) r.size t.elems

/-- The scale of element `e` (R89). -/
def scaleOf (scales : Array Nat) (cols e : Nat) : Nat :=
  scales.getD (e / cols * blocksOf cols + e % cols / 32) 0

/-- The value of an element of a version. -/
def elemVal (t : Tag) (scale : Nat) (e : Elem) : Val :=
  match e with
  | .bits p => patValue t scale p
  | .poison c => .bad c

/-- Pairs the elements of a list with their indices from `n` up. -/
def withIndex {α : Type} (n : Nat) (xs : List α) : List (Nat × α) :=
  match xs with
  | [] => []
  | x :: r => (n, x) :: withIndex (n + 1) r

/-- The exact values of a version's elements, scaled where its tag is narrow (R89). -/
def Tile.vals (t : Tile) (r : ShapeRec) : List Val :=
  let tag := r.tag
  let es := t.elements r
  if tag.narrow then
    let sc := t.scales.toArray
    (withIndex 0 es).map fun (i, e) => elemVal tag (scaleOf sc r.ncols i) e
  else es.map fun e => elemVal tag 0 e

/-- The values of a tile of the block. -/
def Block.vals (b : Block) (t : TileNo) (r : ShapeRec) : List Val := (b.tile t).ver.vals r

/-! ## Masks -/

/-- Bit `e` of a mask (R158). -/
def MaskReg.bit (m : MaskReg) (e : Nat) : Bool := if e < m.n then m.bits.testBit e else m.fill

/-- A mask of length `n` from its bits. -/
def MaskReg.ofBits (bs : List Bool) (c : Option Crumb) : MaskReg :=
  { n := bs.length, fill := false,
    bits := (withIndex 0 bs).foldl (fun a (i, b) => if b then a ||| 2 ^ i else a) 0, poison := c }

/-- The first `n` bits of a mask. -/
def MaskReg.select (m : MaskReg) (n : Nat) : List Bool := (List.range n).map m.bit

/-- Writes a mask version, which takes rows of the grant (R142, R143); m0 ignores it (R57). -/
def putMask (d : MaskField) (m : MaskReg) : M Unit := do
  if d = 0 then pure ()
  else do
    needRows (m.storage (← getBlk).place.width)
    modifyBlk fun b => b.wm d m

/-! ## Writing -/

/-- One element of a destination before it is narrowed: a new value with its rounding mode and whether
every operand was neither NaN nor poison (R102), an element copied from the prior version with its value
(R43), or a pattern that moves bit for bit with its value (R156). -/
inductive Cell where
  | new (v : Val) (clean : Bool) (r : Round)
  | same (e : Elem) (v : Val)
  deriving DecidableEq, Repr

/-- The final value of a cell. -/
def Cell.val (c : Cell) : Val :=
  match c with
  | .new v _ _ => v
  | .same _ v => v

/-- Narrows a value into a tag that is not narrow (R92, R105, R109). -/
def Tag.packVal (t : Tag) (r : Round) (sat : Bool) (v : Val) : Elem :=
  match v with
  | .bad c => .poison c
  | .int n => if t.isInt then .bits (t.ofInt sat n)
              else
                let x := Num.ofInt n
                .bits (t.fmt.pack r (if sat then t.fmt.sat x else x))
  | .num x => if t.isInt then .bits (t.ofNum r sat x)
              else .bits (t.fmt.pack r (if sat then t.fmt.sat x else x))

def Cell.pack (c : Cell) (t : Tag) (sat : Bool) : Elem :=
  match c with
  | .new v _ r => t.packVal r sat v
  | .same e _ => e

/-- A value as a number; an integer is exact. -/
def Val.toNum (v : Val) : Num :=
  match v with
  | .num x => x
  | .int n => Num.ofInt n
  | .bad _ => .nan

/-- floor(log2 |x|) of a finite value that is not zero; none of any other. -/
def Num.log2 (x : Num) : Option Int :=
  match x with
  | .fin _ m e _ => if m = 0 then none else some (e + bitLen_ m - 1)
  | _ => none

/-- emax of an element format (R90). -/
def Tag.emax (t : Tag) : Int :=
  match t with
  | .e4m3 => 8
  | .e5m2 => 15
  | .e3m2 => 4
  | _ => 2

/-- The larger of two optional exponents. -/
def maxExp (a b : Option Int) : Option Int :=
  match a, b with
  | none, b => b
  | a, none => a
  | some x, some y => some (if x < y then y else x)

/-- A value that makes its block a NaN block (R90). -/
def Val.breaksBlock (v : Val) : Bool :=
  match v with
  | .num .nan | .num (.inf _) => true
  | _ => false

/-- The scale E for an exponent of amax (R90). -/
def Tag.scaleFor (t : Tag) (top : Option Int) : Nat :=
  match top with
  | .none => 0
  | .some x =>
    let y := x - t.emax
    ((if y < -127 then -127 else if 127 < y then 127 else y) + 127).toNat

/-- x × 2^k of a finite value. -/
def Num.scale (x : Num) (k : Int) : Num :=
  match x with
  | .fin n m e st => .fin n m (e + k) st
  | y => y

def Cell.round (c : Cell) : Round :=
  match c with
  | .new _ _ r => r
  | .same _ _ => .rne

/-- Packs one cell into an element of a block of scale `sc` (R90). -/
def Cell.packIn (c : Cell) (t : Tag) (sc : Nat) (r : Round) : Elem :=
  .bits (t.fmt.packSat r (c.val.toNum.scale (127 - (sc : Int))))

/-- One block of a narrow destination (R90, R98): its elements and its scale. `rm` rounds the copied
values; `row` is the row's scale where the instruction uses one for the whole row (R155). -/
def Tag.block (t : Tag) (rm : Round) (row : Option Nat) (cs : List Cell) : List Elem × Nat :=
  match cs.foldl (fun a c => mergePoison a c.val.poison) .none with
  | .some c => (cs.map fun _ => .poison c, 255)
  | .none =>
    if cs.any fun c => c.val.breaksBlock then (cs.map fun _ => .bits 0, 255)
    else
      let top := cs.foldl (fun a c => maxExp a c.val.toNum.log2) .none
      let sc := row.getD (t.scaleFor top)
      (cs.map fun c => c.packIn t sc (match c with
        | .new _ _ r => r
        | .same _ _ => rm), sc)

/-- Cuts a list into pieces of `n`; `fuel` bounds the number of pieces. -/
def chunks {α : Type} (fuel n : Nat) (xs : List α) : List (List α) :=
  match fuel with
  | 0 => []
  | f + 1 => if xs.isEmpty then [] else xs.take n :: chunks f n (xs.drop n)

/-- A value that counts for a row's single scale (R155). -/
def Tag.rowTop (blocks : List (List Cell)) : Option Int :=
  (blocks.filter fun cs => !cs.any fun c => c.val.breaksBlock || c.val.poison.isSome).foldl
    (fun a cs => cs.foldl (fun a c => maxExp a c.val.toNum.log2) a) .none

/-- One row of a narrow destination. -/
def Tag.narrowRow (t : Tag) (rm : Round) (oneScale : Bool) (cs : List Cell) : List Elem × List Nat :=
  let blocks := chunks cs.length 32 cs
  let row := if oneScale then .some (t.scaleFor (Tag.rowTop blocks)) else .none
  let packed := blocks.map (t.block rm row)
  (packed.flatMap (·.1), packed.map (·.2))

/-- The elements and scales of a destination (R90, R97 to R99, R109). -/
def Tag.assemble (t : Tag) (cols : Nat) (rm : Round) (sat oneScale : Bool) (cs : List Cell) :
    List Elem × List Nat :=
  if t.narrow then
    let rows := (chunks cs.length cols cs).map (t.narrowRow rm oneScale)
    (rows.flatMap (·.1), rows.flatMap (·.2))
  else (t.keepPoison (cs.map fun c => c.pack t sat), [])

/-- The bits of the dirty tag for a version (R223). -/
def allDirty : Nat := 2 ^ 192 - 1

/-- A fresh version of d's shape that takes the place of `old`; rows that `old` keeps under KEEP stay
(R42, R148). -/
def Tile.fresh (old : Tile) (r : ShapeRec) (es : List Elem) (sc : List Nat) : Tile :=
  { empty := false, tag := r.tag, rows := r.rows, cols := r.ncols,
    elems := es ++ (if old.empty then [] else old.elems.drop (old.rows * old.cols)),
    scales := sc ++ (if old.empty then [] else old.scales.drop (old.rows * blocksOf old.cols)),
    kept := if old.empty then 0 else old.kept, valid := r.size, dirty := allDirty,
    arrived := 0, progress := r.rows }

/-- Storage rows of a version of a record's shape (R142). -/
def ShapeRec.storage (r : ShapeRec) (width : Nat) : Nat := r.rows * r.tag.rowStorage r.ncols width

/-- The errors that stay in the cells. -/
def Work.keepUpsets (w : Work) (stay : Upset → Bool) : Work :=
  let c := w.dev.unc
  { w with dev := { w.dev with unc := { c with upsets := c.upsets.filter stay } } }

/-- Writing a tile's rows ends the errors of their cells (R215). -/
def Work.rewritten (w : Work) (d : TileNo) : Work :=
  if w.dev.unc.upsets = [] then w
  else w.keepUpsets fun u => match u.loc with
    | .tile k t _ _ => !(k == w.dev.blk.id.key && t == d)
    | _ => true

/-- The cells of a version that arrived, or of the oldest entry of a stream queue, become those of tile `d`, and the entries
behind it move up. -/
def UpsetAt.taken (k : BlockKey) (d : TileNo) (q : Option Nat) (u : UpsetAt) : UpsetAt :=
  match u, q with
  | .inbox k' t first n, none => if k' = k ∧ t = d then .tile k d first n else u
  | .slot k' q' i first n, some q =>
    if k' = k ∧ q' = q then (if i = 0 then .tile k d first n else .slot k q (i - 1) first n) else u
  | _, _ => u

/-- The errors of those cells go with them (R215). -/
def Work.takeCells (w : Work) (d : TileNo) (q : Option Nat) : Work :=
  if w.dev.unc.upsets = [] then w
  else
    let w := w.rewritten d
    let c := w.dev.unc
    let ups := c.upsets.map fun u => { u with loc := u.loc.taken w.dev.blk.id.key d q }
    { w with dev := { w.dev with unc := { c with upsets := ups } } }

/-- Writes a version of d (R42, R143). -/
def putTile (d : TileNo) (r : ShapeRec) (es : List Elem) (sc : List Nat) : M Unit := do
  let b ← getBlk
  needRows (r.storage b.place.width)
  modify fun w => w.rewritten d
  setBlk (b.setVer d ((b.tile d).ver.fresh r es sc))

/-- Every element of d becomes poison (R101, R214). -/
def poisonTile (d : TileNo) (r : ShapeRec) (c : Crumb) : M Unit :=
  putTile d r (r.tag.keepPoison (List.replicate r.size (.poison c)))
    (if r.tag.narrow then List.replicate (r.rows * blocksOf r.ncols) 255 else [])

/-- The location of a tile coordinate in the crumb log (R360). -/
def tileLoc (t : TileNo) (row col : Nat) : Nat := t.toNat + 32 * (row % 2048) + 65536 * (col % 65536)

/-- A NaN that the cell generates: none of its operands was NaN or poison (R102). In a narrow destination
an infinity makes a NaN block as well (R90). -/
def Cell.generates (c : Cell) (t : Tag) : Bool :=
  match c with
  | .new v clean _ => clean && !t.isInt && (v.isNan || (t.narrow && v.breaksBlock))
  | .same _ _ => false

/-- First-generated NaN poison (R102, R213): one entry, at the lowest coordinate. -/
def genNans (d : TileNo) (r : ShapeRec) (cs : List Cell) : M (List Cell) := do
  let w ← get
  let b := w.dev.blk
  if !b.csr.poisoncfg.getLsbD 2 then return cs
  else match (withIndex 0 cs).find? fun x => x.2.generates r.tag with
    | none => return cs
    | some (e, _) =>
      let (c, w') := w.crumb b.id.ctx
        { kind := 5, form := 1, loc := tileLoc d (e / r.ncols) (e % r.ncols), syn := 0, pc := b.pc,
          engine := false, key := b.id.key }
      set w'
      return cs.map fun x => if x.generates r.tag then .new (.bad c) false .rne else x

/-- Writes the cells of d: first-generated NaNs, narrowing, scales, poison fields (R43, R90, R102). -/
def writeCells (d : TileNo) (r : ShapeRec) (rm : Round) (sat oneScale : Bool) (cs : List Cell) :
    M Unit := do
  let cs ← genNans d r cs
  let (es, sc) := r.tag.assemble r.ncols rm sat oneScale cs
  putTile d r es sc

/-- The prior elements of d as cells (R43, R152). -/
def Block.priorCells (b : Block) (d : TileNo) (r : ShapeRec) : List Cell :=
  List.zipWith Cell.same ((b.tile d).ver.elements r) (b.vals d r)

/-- Takes the new cell where the mask selects and the prior one elsewhere (R43). -/
def pickCells (sel : List Bool) (new prior : List Cell) : List Cell :=
  match sel, new, prior with
  | s :: ss, n :: ns, p :: ps => (if s then n else p) :: pickCells ss ns ps
  | _, _, _ => []

/-- A masked write of d (R43, R101, R152): a poisoned write mask poisons every element. -/
def maskedWrite (d : TileNo) (r : ShapeRec) (m : MaskField) (rm : Round) (sat oneScale : Bool)
    (new : List Cell) : M Unit := do
  let b ← getBlk
  let mask := b.rm_ m
  match mask.poison with
  | some c => poisonTile d r c
  | none =>
    if m = 0 then writeCells d r rm sat oneScale new
    else writeCells d r rm sat oneScale (pickCells (mask.select r.size) new (b.priorCells d r))

end Sys2Proof.Machine
end

