-- ==== Sys2Proof/Machine/Cells.lean ====
section
/-! DEFINITION. Errors of a block's own cells, which its next instruction meets: register files and control registers,
and the rows of the tiles it reads (R195, R215). -/
namespace Sys2Proof.Machine

/-- The error is over, with an error-log record of the block's core (R219). -/
def Work.endCell (w : Work) (u : Upset) (level row : Nat) : Work :=
  let c := w.dev.unc
  let core := w.dev.blk.place.core
  ({ w with dev := { w.dev with unc := { c with upsets := c.upsets.filter (· != u) } } }).errLog level
    (if u.fatal then 1 else 0) core row 0 u.syndrome.toNat (w.dev.cycle core % 2 ^ 32)

/-- The error in a register file or control register of the block that issues. -/
def Work.fileUpset (w : Work) : Option Upset :=
  w.dev.unc.upsets.find? fun u => u.loc == .file w.dev.blk.id.key

/-- An uncorrectable error there kills the block with HW_ERROR; another is corrected (R215). DESIGN CHOICE, log entry 13: it
is detected at the block's next issue, whatever register that instruction reads, or as the save engine reads the registers. -/
def Work.meetFile (w : Work) (u : Upset) : Work :=
  let w := w.endCell u 6 0
  if u.fatal then w.kill .hwError 0 w.dev.blk.pc 0 w.dev.blk.csr.fltinfo else w

/-- A masked destination is read where its old elements stay. -/
def keptDest (m : MaskField) (d : TileNo) : List TileNo := if m = 0 then [] else [d]

/-- The tiles that an instruction names and reads. A call and a SHAPE meet the errors of the tiles that they read in
their own meanings, since a call that traps leaves no entry (R162, R177) and a SHAPE reads what it re-lays
(R148). -/
def tileReads (i : Instr) : List TileNo :=
  match i with
  | .tadd d a b m _ | .tsub d a b m _ | .tmul d a b m _ | .tmin d a b m _ | .tmax d a b m _ | .tand d a b m _
  | .tor d a b m _ | .txor d a b m _ | .tshl d a b m _ | .tshr d a b m _ | .tperm d a b m =>
    a :: b :: keptDest m d
  | .tfma d a b _ _ | .tfms d a b _ _ => [a, b, d]
  | .tcmp _ a b _ _ | .tsel _ a b _ _ => [a, b]
  | .mma _ a b _ _ _ | .mmas _ a b _ _ _ => [a, b]
  | .tabs d a m _ | .tneg d a m _ | .trcp d a m _ | .trsq d a m _ | .texp d a m _ | .tlog d a m _ | .ttanh d a m _
  | .tcvt d a _ m _ _ | .tqnt d a _ m _ _ | .tdq d a _ m _ _ | .tmov d a m | .ttrans d a m | .tslide d a _ m =>
    a :: keptDest m d
  | .tredr _ a _ _ | .tredc _ a _ _ | .tscan _ a _ _ | .tnz _ a _ | .tcomp _ a _ | .texpd _ a _ => [a]
  | .tgets _ a _ | .tclass _ a _ _ | .tpmask _ a _ | .tamov _ a _ | .send _ a _ => [a]
  | .mmav _ b _ _ _ _ => [b]
  | .tbcast d _ m | .tiota d _ _ m | .amov d _ m _ _ => keptDest m d
  | .tld d _ m _ _ | .tlds d _ _ m _ _ | .tldb d _ m _ _ | .tldw d _ _ m _ _ | .tldc d _ _ m _ _ | .tldsh d _ m =>
    keptDest m d
  | .tldg d _ b m _ _ => b :: keptDest m d
  | .tst d _ _ _ _ | .tsts d _ _ _ _ _ | .tstsh d _ _ => [d]
  | .tsct d _ b _ _ _ | .tscta d _ b _ _ _ | .tatom d _ b _ _ _ => [d, b]
  | _ => []

/-- The errors in the rows of the tiles `ts` of the block that issues. -/
def Work.tileUpsets (w : Work) (ts : List TileNo) : List Upset :=
  w.dev.unc.upsets.filter fun u =>
    match u.loc with
    | .tile k t _ _ => k = w.dev.blk.id.key ∧ t ∈ ts
    | _ => false

/-- The errors in versions that arrived and in entries of stream queues of the block that issues. -/
def Work.queuedUpsets (w : Work) : List Upset :=
  w.dev.unc.upsets.filter fun u =>
    match u.loc with
    | .inbox k _ _ _ | .slot k _ _ _ _ => k = w.dev.blk.id.key
    | _ => false

/-- A version whose cells an error lies in: its number in a crumb-log entry, which for an entry of a stream queue is the
queue's, the first element and how many. -/
structure Struck where
  num : Nat
  first : Nat
  count : Nat
  ver : Tile
  deriving DecidableEq, Repr

/-- What an error of a tile's rows strikes, of a version that arrived or of an entry of a stream queue. -/
def Block.struck (b : Block) (u : UpsetAt) : Option Struck :=
  match u with
  | .tile _ t first n => .some { num := t.toNat, first := first, count := n, ver := (b.tile t).ver }
  | .inbox _ t first n => (b.tile t).inbox.map fun v => { num := t.toNat, first := first, count := n, ver := v }
  | .slot _ q i first n => (b.queue q).slots[i]?.map fun v => { num := q, first := first, count := n, ver := v }
  | _ => .none

/-- Puts that version back. -/
def Block.putStruck (b : Block) (u : UpsetAt) (v : Tile) : Block :=
  match u with
  | .tile _ t _ _ => b.setVer t v
  | .inbox _ t _ _ => b.setTile t { b.tile t with inbox := .some v }
  | .slot _ q i _ _ => b.setQueue q { b.queue q with slots := (b.queue q).slots.set i v }
  | _ => b

/-- Elements `first` to `first` + `n` - 1, whole blocks of them in a narrow tag, take poison (R98, R195). -/
def Tile.spoil (t : Tile) (first n : Nat) (c : Crumb) : Tile :=
  let hit (e : Nat) : Bool :=
    if t.tag.narrow then
      (List.range n).any fun k =>
        let x := first + k
        x < t.elems.length && x / t.cols == e / t.cols && x % t.cols / 32 == e % t.cols / 32
    else first ≤ e && e < first + n
  let put (x : Elem × Nat) : Elem :=
    if hit x.2 then .poison ((mergePoison x.1.crumb (some c)).getD c) else x.1
  { t with elems := t.tag.keepPoison (t.elems.zipIdx.map put) }

/-- A read meets an error in a version's rows: the record, the crumb-log entry, the poison; a single-bit error is
corrected (R195, R215, R360). DESIGN CHOICE, log entry 13: the error is over with its first read, and the committed elements
stay poison of that one origin. -/
def Work.meetTile (w : Work) (u : Upset) : Work :=
  let b := w.dev.blk
  match b.struck u.loc with
  | none => w.endCell u 0 0
  | some x =>
    let w := w.endCell u 0 x.num
    if u.fatal && !x.ver.empty && x.first < x.ver.elems.length then
      let loc := x.num + 32 * (x.first / x.ver.cols % 2048) + 65536 * (x.first % x.ver.cols % 65536)
      let (c, w) := w.crumb b.id.ctx
        { kind := 4, form := 1, loc := loc, syn := u.syndrome.toNat, pc := b.pc, engine := false, key := b.id.key }
      { w with dev := { w.dev with blk := w.dev.blk.putStruck u.loc (x.ver.spoil x.first x.count c) } }
    else w

/-- The errors in the rows of the tiles `ts` are met. -/
def Work.meetTiles (w : Work) (ts : List TileNo) : Work :=
  if w.dev.unc.upsets = [] then w else (w.tileUpsets ts).foldl Work.meetTile w

/-- The errors in the rows of the tiles that a meaning reads are met. -/
def meetRows (ts : List TileNo) : M Unit := modify fun w => w.meetTiles ts

/-- The state in which the instruction runs: the errors of the tiles it reads are met. -/
def State.meet (s : State) (i : Instr) : State :=
  if s.dev.unc.upsets = [] then s else ((Work.start s).meetTiles (tileReads i)).settle s

/-- The error of a register file that the block meets as it issues, with the state after it. -/
def State.meetFile (s : State) : Option State :=
  if s.dev.unc.upsets = [] then none
  else
    let w := Work.start s
    w.fileUpset.map fun u => (w.meetFile u).settle s

end Sys2Proof.Machine
end

