-- ==== Sys2Proof/Machine/Operands.lean ====
section
/-! DEFINITION. The operand forms: immediates, offsets, addresses, pairs, region words (R5, R58, R59,
R72, R73). -/
namespace Sys2Proof.Machine

/-- imm16 read by sext (R58). -/
def sext16 (i : BitVec 16) : Word := i.signExtend 64

/-- imm16 read by zext (R58). -/
def zext16 (i : BitVec 16) : Word := i.zeroExtend 64

/-- The 13-bit immediate of CMPI (R58, R127). -/
def sext13 (i : BitVec 13) : Word := i.signExtend 64

/-- imm21 of LUI and AUIPC: sext(imm21, 21) << 16 (R58, R125). -/
def upper (i : BitVec 21) : Word := i.signExtend 64 <<< 16

/-- The target of a transfer: the transferring word's address plus 4 × offset words (R52, R121). -/
def target {n : Nat} (pc : Word) (o : BitVec n) : Word := pc + (o.signExtend 64 <<< 2)

/-- The length of BFX and BFI; 0 means 64 (R64). -/
def bitLen (l : BitVec 6) : Nat := if l = 0 then 64 else l.toNat

/-- wrap64(s_base + s_index), with pmerge of the operands' poison (R66). -/
def Block.addr (b : Block) (base index : Reg) : SReg :=
  SReg.result (mergePoison (b.rs base).poison (b.rs index).poison) (b.sv base + b.sv index)

/-- The scope codes (R59). -/
inductive Scope where
  | block | gang | core | device | domain | system
  deriving DecidableEq, Repr

def Scope.ofCode (n : Nat) : Scope :=
  match n with
  | 0 => .block
  | 1 => .gang
  | 2 => .core
  | 3 => .device
  | 4 => .domain
  | _ => .system

/-- An accumulator region (R72): first row and column, row and column counts. -/
structure Region where
  row : Nat
  col : Nat
  rows : Nat
  cols : Nat
  deriving DecidableEq, Repr

/-- The region that a region word names (R72). -/
def regionWord (v : Word) : Region :=
  { row := (v.extractLsb' 0 10).toNat, col := (v.extractLsb' 10 9).toNat,
    rows := (v.extractLsb' 19 10).toNat + 1, cols := (v.extractLsb' 29 9).toNat + 1 }

/-- The region lies in the grant and no reserved bit is set (R72). -/
def regionOk (v : Word) (tsRows : Nat) : Bool :=
  let r := regionWord v
  v.extractLsb' 38 26 == 0 && r.row + r.rows ≤ 1024 && r.col + r.cols ≤ 512 &&
    r.row + r.rows ≤ tsRows

end Sys2Proof.Machine
end

