-- ==== Sys2Proof/Machine/Access.lean ====
section
/-! DEFINITION. Accesses to memory: homes and holders, poison of lines, performing committed writes, and
what a block waits for (R130, R195, R244, R245, R267, R269, R292 to R299, R379, R380, R386).

A read is performed when its instruction issues, a write at a later step or where an order edge needs
it; log entry 5. -/
namespace Sys2Proof.Machine

/-! ## Poison of lines -/

/-- The block's read of the line was declared lost (R388): no data came. -/
def Work.lostRead (w : Work) (line : Nat) : Bool :=
  w.dev.link.reqs.any fun r =>
    r.line == line && r.slice != codeSlice && r.by_ == some w.dev.blk.id.key && r.answer == some ([], true)

/-- Why a read of a line is poison (R195, R240, R388): the crumb kind and syndrome. -/
def Work.badLine (w : Work) (line : Nat) : Option (Nat × Nat) :=
  if w.lostRead line || w.dev.link.lost.contains line then some (1, 0xFFFFFFFF)
  else if w.linePoison line then some (1, 0)
  else if w.deadLine line then some (1, 0)
  else match w.upsetAt line with
    | some u => some (if u.loc == .line line true then 2 else 1, u.syndrome.toNat)
    | none => none

/-- Allocates the crumb-log entries of an instruction's bad lines, in the order given: at most 32, the
rest taking the 32nd with the merge flag (R195). -/
def Work.lineCrumbs (w : Work) (lines : List Nat) (count : Nat) (last : Crumb) (pc : Word)
    (engine : Bool) (key : BlockKey) (ctx : Nat) : List (Nat × Crumb) × Work :=
  match lines with
  | [] => ([], w)
  | l :: r =>
    if count < 32 then
      let (kind, syn) := (w.badLine l).getD (1, 0)
      let (c, w') := (w.noteUpset l).crumb ctx { kind := kind, form := 0, loc := l * 128, syn := syn,
                                                 pc := pc, engine := engine, key := key }
      let (cs, w'') := w'.lineCrumbs r (count + 1) c pc engine key ctx
      ((l, c) :: cs, w'')
    else
      let c := { last with merged := true }
      let (cs, w') := (w.noteUpset l).lineCrumbs r count last pc engine key ctx
      ((l, c) :: cs, w')

/-- The crumbs of the bad lines among those an instruction of the block reads. -/
def crumbLines (lines : List Nat) : M (List (Nat × Crumb)) := do
  modify fun w => if w.dev.unc.upsets = [] then w else w.correct lines
  let w ← get
  let b := w.dev.blk
  let bad := lines.filter fun l => (w.badLine l).isSome
  let (cs, w') := w.lineCrumbs bad 0 { origin := 0, merged := false } b.pc false b.id.key b.id.ctx
  set w'
  return cs

/-! ## Performing writes -/

/-- The effect of a write on what is known of its line (R245, R246, R269): copies are invalidated, the home's entry
is dirty; poison sets the poison bit; a plain write of all 128 bytes clears it; a merge that meets an error sets
it. -/
def Work.writeMeta (w : Work) (line : Nat) (full poison : Bool) : Work :=
  let bad := (w.upsetAt line).isSome
  let w := if bad then w.noteUpset line else w
  let w := { w with dev := ((w.dev.useDrop line).dropCopy line).dirtyL2 line }
  let m := w.meta line
  let m' := m &&& 0x9FFF#16
  let m' := if poison then m' ||| 0x8000#16 else if full then m' &&& 0x7FFF#16 else m'
  if m' = m then w else w.putMeta line m'

/-- The byte mask of a line's bytes (R384). -/
def byteMask (bs : List Host.Cell) : Nat := bs.foldl (fun m c => m ||| 2 ^ (c.1 % 128)) 0

/-- The 128 bytes of a line with cells put in; other places zero. -/
def lineImage (bs : List Host.Cell) : List Byte :=
  (List.range 128).map fun i => ((bs.find? fun c => c.1 % 128 == i).map (·.2)).getD 0

/-- The cells reach each of the line's 128 places. -/
def coversLine (bs : List Host.Cell) : Bool :=
  128 ≤ bs.length && (List.range 128).all fun i => bs.any fun c => c.1 % 128 == i

/-- Performs the bytes of one line at its home, oldest first (R240, R267, R269, R286): a peer's line travels as
UC_WR. -/
def Work.performBytes (w : Work) (line : Nat) (bs : List Host.Cell) (poison : Bool) (slice : Nat) :
    Work :=
  if regionOf (line * 128) = 3 then
    let (tag, d) := w.dev.takeTag
    let r : Req := { tag := tag, kind := .write, peer := peerOf (line * 128), line := line,
                     by_ := some d.blk.id.key, slice := slice, elem := none, expect := none, answer := none }
    let d := { d with link := { d.link with reqs := d.link.reqs ++ [r] } }
    ({ w with dev := d }).post
      { op := LinkOp.ucWr.code, src := 0, dest := peerOf (line * 128), tag := tag,
        line := peerLine (line * 128), poison := poison, data := lineImage bs.reverse,
        mask := byteMask bs, extra := 0, index := 0, since := none } (16 * w.dev.blk.place.core + slice)
  else
    let lost := w.deadLine line
    let w := bs.foldl (fun w c => w.putByte c.1 c.2) w
    let full := coversLine bs
    let w := (w.writeMeta line full (poison || (lost && !full))).holdDead line
    { w with dev := w.dev.recopy line }

/-! ## Completion words -/

/-- Increments a completion or done word of this device at its home (R370), in the line's order like any write (R246, R286,
R292). -/
def Work.increment (w : Work) (pa : Nat) (err : Bool) : Work :=
  let line := lineOf pa
  let w := ((w.putLe pa 8 (bumpWord (w.le pa 8) err)).writeMeta line false (w.deadLine line)).holdDead line
  { w with dev := w.dev.recopy line }

/-- The exchange that increments a peer's word, while it is out. -/
def riseElem (pa : Nat) (err : Bool) : Nat := pa % 128 + (if err then 128 else 0)

def Dev.riseOut (d : Dev) (pa : Nat) (err : Bool) : Option Req :=
  d.link.reqs.find? fun r => r.kind == .atomic && r.by_.isNone && r.line == lineOf pa && r.elem == some (riseElem pa err)

def Work.sendRise (w : Work) (pa old : Nat) (err : Bool) : Work :=
  (w.sendAtom pa 9 true (bumpWord old err) old false none 16 (some (riseElem pa err))).expecting old

/-- Increments a peer's word (R370): no aop of R384 leaves the error flag as it stands and wraps below it, so that a compare
and exchange of the word is sent, again with the value that it returned until that is the one expected; log entry 65. -/
def Work.riseThere (w : Work) (pa : Nat) (err : Bool) : Bool × Work :=
  match w.dev.riseOut pa err with
  | none => (false, w.sendRise pa 0 err)
  | some r =>
    match r.answer with
    | none => (false, w)
    | some (bs, bad) =>
      let w := w.dropReq r
      let old := leNat (bs.take 8)
      if bad || r.expect == some old then (true, w) else (false, w.sendRise pa old err)

/-- The home of a device-written word can take the write (R245, R380); a peer's word travels there. -/
def Work.claimWord (w : Work) (pa : Nat) : Bool × Work :=
  let pa := w.redirect pa
  if regionOf pa = 3 then (true, w) else w.claim (lineOf pa) true

/-- Increments a word once its home can take it; whether it was. -/
def Work.bump (w : Work) (pa : Nat) (err : Bool) : Bool × Work :=
  let pa := w.redirect pa
  if regionOf pa = 3 then w.riseThere pa err
  else
    let (ok, w) := w.claim (lineOf pa) true
    if ok then (true, w.increment pa err) else (false, w)

/-- A word that takes +1 with bit 63 as soon as its home can, for a launch. -/
def Work.owe (w : Work) (lid pa : Nat) : Work :=
  { w with dev := { w.dev with eng := { w.dev.eng with owed := w.dev.eng.owed ++ [(lid, pa)] } } }

/-- The same for a done word, where one is named (R334, R346). -/
def Work.bumpNamed (w : Work) (pa : Option Nat) (err : Bool) : Bool × Work :=
  match pa with
  | none => (true, w)
  | some pa => w.bump pa err

/-- The word that an address of a record names; 0 names none (R324). -/
def wordNamed (a : Nat) : Option Nat := if a = 0 then none else some a

/-- The completion words of what was abandoned or stopped take +1 with bit 63 (R282, R343), those whose homes can. -/
def Work.payOwed (w : Work) : Work :=
  w.dev.eng.owed.foldl (fun w x =>
    let (put, w) := w.bump x.2 true
    if put then { w with dev := { w.dev with eng := { w.dev.eng with owed := w.dev.eng.owed.erase x } } } else w) w

/-- Moves the cells of a write to where a forwarding home sends them. -/
def Work.redirectCells (w : Work) (bs : List Host.Cell) : List Host.Cell :=
  if w.dev.eng.forwards = [] then bs else bs.map fun c => (w.redirect c.1, c.2)

/-! ## What a block waits for -/

/-- Gives up this step: the instruction stays at its address and the block READY. -/
def stay {α : Type} : M α := stopWith .stay

/-- Requires that the home may serve a line (R245); else the block waits. -/
def claimLine (line : Nat) (write : Bool) : M Unit := do
  let (ok, w) := (← get).claim line write
  set w
  if ok then pure () else stay

/-- The block's writes and atomics that a peer has not acknowledged (R385). -/
def Dev.unacked (d : Dev) (k : BlockKey) : List Req :=
  d.link.reqs.filter fun r => (r.kind == .write || r.kind == .atomic) && r.by_ == some k &&
    r.answer == none

/-- The bytes of a peer's line for a read of the block: from this device's own copy, or from the answer
to its UC_RD; with none the request is sent and the block waits (R386), also while a write of its own to
the line is unacknowledged (R294). -/
def peerLineBytes (line : Nat) : M (List Byte × Bool) := do
  let w ← get
  let d := w.dev
  let pa := line * 128
  if (d.unacked d.blk.id.key).any (·.line == line) then stay
  else match d.link.held.find? fun h => h.line == peerLine pa && h.home == peerOf pa with
  | some h => return (h.data, h.poison)
  | none =>
    match d.link.reqs.find? fun r => r.kind == .read && r.slice != codeSlice && r.line == line &&
        r.by_ == some d.blk.id.key with
    | some r =>
      match r.answer with
      | some a => return a
      | none => stay
    | none =>
      let (tag, d) := d.takeTag
      let r : Req := { tag := tag, kind := .read, peer := peerOf pa, line := line,
                       by_ := some d.blk.id.key, slice := 16, elem := none, expect := none, answer := none }
      let d := { d with link := { d.link with reqs := d.link.reqs ++ [r] } }
      set (({ w with dev := d }).post (plainMsg .ucRd (peerOf pa) tag (peerLine pa)) line)
      stay

/-- Forgets the answered reads of the block once its instruction has used them. -/
def dropReads : M Unit := modifyDev Dev.dropReads

/-- Makes a line ready to be read by the block. -/
def readyLine (line : Nat) : M Unit :=
  if regionOf (line * 128) = 3 then do let _ ← peerLineBytes line else claimLine line false

/-- Makes every line ready; the first that is not makes the block wait. -/
def readyLines (lines : List Nat) : M Unit :=
  match lines with
  | [] => pure ()
  | l :: r => do readyLine l; readyLines r

/-- One byte of a ready line. -/
def readByte (pa : Nat) : M Byte := do
  let w ← get
  let pa := w.redirect pa
  if regionOf pa = 3 then do
    let (bs, _) ← peerLineBytes (lineOf pa)
    return bs.getD (pa % 128) 0
  else return w.byte pa

/-- Bytes of ready lines, little-endian. -/
def readNat (pa n : Nat) : M Nat :=
  match n with
  | 0 => pure 0
  | n + 1 => do
    let b ← readByte pa
    return b.toNat + 256 * (← readNat (pa + 1) n)

/-- A ready line's data carries poison: the home's metadata, or the peer's poison bit (R195, R384). -/
def lineIsBad (line : Nat) : M Bool := do
  if regionOf (line * 128) = 3 then do
    let (_, p) ← peerLineBytes line
    return p
  else return ((← get).badLine line).isSome

/-- A peer's poison arrives as the line's poison bit, which the reader then names (R384). -/
def notePeerPoison (line : Nat) : M Unit := do
  if regionOf (line * 128) = 3 then do
    let (_, p) ← peerLineBytes line
    modify fun w => if p then w.setPoison line true else w.setPoison line false
  else pure ()

/-! ## Translation by the block -/

/-- What translation gives an access. -/
inductive Reach where
  | ok (pa : Nat) (l : Leaf)
  | breach
  | fault
  deriving DecidableEq, Repr

/-- Translates a virtual address of the block for an access by a part of its core's unit (R349, R350, R353); a walk that must
wait for a holder makes the block wait. -/
def reach (u : TlbUnit) (va : Nat) (a : Access) : M Reach := do
  let w ← get
  let b := w.dev.blk
  let (f, w') := w.translate (b.spaceOf u) va
  set w'
  match f with
  | .leaf l => if l.allows b.ps.pl a then return .ok (l.pa va) l else return .breach
  | .fault => return .fault
  | .busy => stay

/-- The batch that a scalar access of the instruction at the program counter, or a read of a tensor map, waits on (R130). -/
def Block.waitsOn (b : Block) : Option BlockBatch := b.batch.filter fun bb => !bb.fetch && bb.pc == b.pc

/-- The answer to a batch on which the block's instruction waits (R130, R196 to R198): pending keeps
it waiting, refused traps with PAGE_FAULT, unresolvable kills with FRAME_EXHAUSTED. -/
def answerTo (bb : BlockBatch) : M Answer := do
  match (← getDev).answer bb.id with
  | none => stay
  | some .refused => raiseAt .pageFault bb.elem
  | some .unresolvable => stopWith (.trap .frameExhausted 0 bb.elem (some bb.flt))
  | some a => return a

/-- A scalar access waits for the answer to its batch, which is then dealt with (R130). -/
def gate : M Unit := do
  match (← getBlk).waitsOn with
  | none => pure ()
  | some bb => do
    let _ ← answerTo bb
    modify Work.clearBatch

/-- A tile access that may be a reissue waits for the batch of its map or its element too, then for the one that it is
reissued for (R197); the answer to that. -/
def gateTile : M (Option Answer) := do
  gate
  match (← getBlk).reissuing, (← getBlk).parked with
  | true, some bb => return some (← answerTo bb)
  | _, _ => return none

/-- A translation fault that sends a one-page batch, for which the block waits (R130, R198): the element that
met it, and its address. -/
def waitPage {α : Type} (elem va : Nat) : M α := do
  modify fun w =>
    w.blockBatch false [pageOf va] true elem w.dev.blk.csr.fltinfo (BitVec.ofNat 64 va)
  stay

/-- Requires that translation by a part of the core's unit gives a physical address: ACCESS for a breach, which names an
element, else a batch (R130, R181, R198). -/
def reachFor (u : TlbUnit) (elem va : Nat) (a : Access) : M (Nat × Leaf) := do
  match ← reach u va a with
  | .ok pa l => return (pa, l)
  | .breach => raiseAt .access elem
  | .fault => waitPage elem va

/-- The same for a scalar access. -/
def reachScalar (va : Nat) (a : Access) : M (Nat × Leaf) := do reachFor (← getBlk).scalarUnit 0 va a

/-! ## Page kinds -/

/-- DEVICE and STRONG pages: each element once, in order (R267, R299). -/
def Leaf.strict (l : Leaf) : Bool := l.type == .device || l.type == .strong

/-- Writes to the page are performed at once and in element order: DEVICE, STRONG and host-shared pages
(R267, R271). -/
def Leaf.inOrder (l : Leaf) : Bool := l.strict || l.hostShared

end Sys2Proof.Machine
end

