-- ==== Sys2Proof/Machine/Perform.lean ====
section
/-! DEFINITION. Performing a block's committed writes, in the orders that R267, R269, R278, R291 to R304
allow, and waiting for them; log entry 5. -/
namespace Sys2Proof.Machine

/-- The aop code of an ATOM that adds in a tag (R384). -/
def Tag.addOp (t : Tag) : Nat := if t.isInt then 0 else 10

/-- The poison of a NaN that the block that issues generates in memory (R102): its entry is appended with the first. -/
def Work.genCrumb (w : Work) (g : GenNan) : Option Crumb × Work :=
  match g with
  | .off => (none, w)
  | .known c => (some c, w)
  | .log id a =>
    let (c, w) := w.crumb w.dev.blk.id.ctx a
    let share (e : Pend) : Pend :=
      match e.kind with
      | .add pa t v (.log n b) => if n = id then { e with kind := .add pa t v (.known c) } else { e with kind := .add pa t v (.log n b) }
      | _ => e
    (some c, { w with dev := { w.dev with blk := { w.dev.blk with pend := w.dev.blk.pend.map share } } })

/-- The update of TSCTA at the line's home (R269, R278, R286): a poisoned line takes none; poison makes the word
poison, and so does a NaN that GENNAN makes poison (R102). -/
def Work.performAdd (w : Work) (pa : Nat) (t : Tag) (v : Elem) (g : GenNan) : Work :=
  let w := w.noteUpset (lineOf pa)
  let n := t.width / 8
  if w.linePoison (lineOf pa) || w.deadLine (lineOf pa) then w
  else
    let (v, w) := match v with
      | .bits x =>
        if t.isFloat && t.fmt.sumMakesNan (w.le pa n) x then
          match w.genCrumb g with
          | (some c, w) => (Elem.poison c, w)
          | (none, w) => (v, w)
        else (v, w)
      | .poison _ => (v, w)
    let w := match v with
      | .bits x => (w.putLe pa n (t.addBits (w.le pa n) x)).writeMeta (lineOf pa) false false
      | .poison c => (w.putLe pa n (t.poisonBits 0 c)).writeMeta (lineOf pa) false true
    { w with dev := w.dev.recopy (lineOf pa) }

/-- The operand that carries an update over the link (R384). -/
def updateOperand (t : Tag) (v : Elem) : Nat :=
  match v with
  | .bits x => x
  | .poison c => t.poisonBits 0 c

/-- A write to a peer's line waits for the block's unacknowledged writes to that line, and for those of its
slice that went to another home (R301, R385). -/
def Work.linkHolds (w : Work) (slice line : Nat) : Bool :=
  (w.dev.unacked w.dev.blk.id.key).any fun r =>
    r.line == line ||
      (r.slice == slice && !(regionOf (line * 128) == 3 && peerOf (line * 128) == r.peer))

/-- Merges bits into one byte at its home, in one update (R274). -/
def Work.mergeHere (w : Work) (pa : Nat) (mask val : Byte) (poison : Bool) (slice : Nat) : Work :=
  let new := (w.byte pa &&& ~~~mask) ||| (val &&& mask)
  w.performBytes (lineOf pa) [(pa, new)] poison slice

/-- The exchange by which the block merges bits into a peer's byte, if one is out. -/
def Dev.mergeOut (d : Dev) (line : Nat) : Option Req :=
  d.link.reqs.find? fun r => r.expect.isSome && r.line == line && r.by_ == some d.blk.id.key

/-- A word with the bits of `mask` in its byte `i` replaced. -/
def mergeWord (old i : Nat) (mask val : Byte) : Nat :=
  let b := BitVec.ofNat 8 (old / 2 ^ (8 * i))
  old - b.toNat * 2 ^ (8 * i) + ((b &&& ~~~mask) ||| (val &&& mask)).toNat * 2 ^ (8 * i)

/-- Sends the exchange of a merge, which expects `old` in the byte's word. -/
def Work.sendMerge (w : Work) (pa old : Nat) (mask val : Byte) (poison : Bool) (slice : Nat) : Work :=
  (w.sendAtom (pa / 4 * 4) 9 false (mergeWord old (pa % 4) mask val) old poison (some w.dev.blk.id.key) slice none).expecting
    old

/-- Merges bits into a peer's byte, which R274 wants atomic (R384): a compare and exchange of its word, again with the
value that it returned until that is the one expected; log entry 65. A poisoned line is left as it is (R269). -/
def Work.mergeThere (w : Work) (pa : Nat) (mask val : Byte) (poison : Bool) (slice : Nat) : Bool × Work :=
  match w.dev.mergeOut (lineOf pa) with
  | none => (false, w.sendMerge pa 0 mask val poison slice)
  | some r =>
    match r.answer with
    | none => (false, w)
    | some (bs, bad) =>
      let w := w.dropReq r
      let old := leNat bs % 2 ^ 32
      if bad || r.expect == some old then (true, w) else (false, w.sendMerge pa old mask val poison slice)

/-- What a write of a slice does with L2 at its home (R234, R268, R291, R376): atomics and updates allocate. -/
def Work.usesL2 (w : Work) (slice line : Nat) (bypass : Bool) : Work :=
  w.accessLines [(line, if slice = 16 then w.dev.blk.place.scalarGroup else slice)] true
    { bypass := bypass, low := false }

/-- Performs a sound entry of the block that issues, where its home may take it now. -/
def Work.performSound (w : Work) (e : Pend) : Bool × Work :=
  let line := lineOf (w.redirect (e.line * 128))
  let far := regionOf (line * 128) == 3
  match e.kind with
  | .mark release => (!release || (w.dev.unacked w.dev.blk.id.key).isEmpty, w)
  | .bytes bs =>
    if w.linkHolds e.slice line then (false, w)
    else if far then (true, w.performBytes line (w.redirectCells bs) e.poison e.slice)
    else
      let (ok, w) := w.claim line true
      if ok then (true, (w.usesL2 e.slice line e.bypass).performBytes line (w.redirectCells bs) e.poison e.slice)
      else (false, w)
  | .merge pa mask val =>
    if far && (w.dev.mergeOut line).isSome then w.mergeThere (w.redirect pa) mask val e.poison e.slice
    else if w.linkHolds e.slice line then (false, w)
    else if far then w.mergeThere (w.redirect pa) mask val e.poison e.slice
    else
      let (ok, w) := w.claim line true
      if ok then (true, (w.usesL2 e.slice line e.bypass).mergeHere (w.redirect pa) mask val e.poison e.slice)
      else (false, w)
  | .add pa t v g =>
    if w.linkHolds e.slice line then (false, w)
    else if far then
      (true, w.sendAtom (w.redirect pa) t.addOp (t.width == 64) (updateOperand t v) 0 e.poison
        (some w.dev.blk.id.key) e.slice none)
    else
      let (ok, w) := w.claim line true
      if ok then (true, (w.usesL2 e.slice line false).performAdd (w.redirect pa) t v g) else (false, w)

/-- The error of the oldest entry of a slice's queue (R215). -/
def Work.entryUpset (w : Work) (e : Pend) : Option Upset :=
  if (match e.kind with | .mark _ => true | _ => false) then none
  else w.dev.unc.upsets.find? fun u => u.loc == .entry w.dev.blk.id.key e.slice

/-- The physical address of an entry. -/
def Pend.pa (e : Pend) : Nat :=
  match e.kind with
  | .bytes bs => (bs.head?.map (·.1)).getD (e.line * 128)
  | .merge pa _ _ | .add pa _ _ _ => pa
  | .mark _ => 0

/-- An entry that could not be corrected, as the poisoned write that it becomes (R215, R304). -/
def Pend.spoil (e : Pend) (c : Crumb) : Pend :=
  { e with poison := true, kind := match e.kind with
      | .add pa t _ g => .add pa t (.poison c) g
      | k => k }

/-- The error of an entry is over: its error-log record (R219). -/
def Work.endUpset (w : Work) (u : Upset) (pa : Nat) : Work :=
  let c := w.dev.unc
  let core := w.dev.blk.place.core
  ({ w with dev := { w.dev with unc := { c with upsets := c.upsets.filter (· != u) } } }).errLog 5
    (if u.fatal then 1 else 0) core 0 pa u.syndrome.toNat (w.dev.cycle core % 2 ^ 32)

/-- Performs one committed write of the block that issues, where its home may take it now. An entry with a single-bit
error is corrected; one that cannot be is performed as a poisoned write, with its crumb-log entry (R215, R304). -/
def Work.performEntry (w : Work) (e : Pend) : Bool × Work :=
  match w.entryUpset e with
  | none => w.performSound e
  | some u =>
    if u.fatal then
      let b := w.dev.blk
      let (c, w') := w.crumb b.id.ctx
        { kind := 4, form := 0, loc := e.pa, syn := u.syndrome.toNat, pc := b.pc, engine := false, key := b.id.key }
      match w'.performSound (e.spoil c) with
      | (true, w') => (true, w'.endUpset u e.pa)
      | (false, _) => (false, (w.performSound (e.spoil c)).2)
    else
      let (ok, w') := w.performSound e
      if ok then (true, w'.endUpset u e.pa) else (false, w')

/-- Performs committed writes in program order up to the first that its home cannot take yet; what is
left. -/
def Work.performAll (w : Work) (es : List Pend) : Work × List Pend :=
  match es with
  | [] => (w, [])
  | e :: r =>
    let (ok, w') := w.performEntry e
    if ok then w'.performAll r else (w', e :: r)

/-- Drains the slice store queues of the block that issues. -/
def Work.drain (w : Work) : Work :=
  if w.dev.blk.pend = [] then w
  else
    let (w, left) := w.performAll w.dev.blk.pend
    { w with dev := { w.dev with blk := { w.dev.blk with pend := left } } }

/-- The oldest write of a slice that nothing older holds back: same line at the home that `home` gives, or a join
(R294, R297, R302); its predecessors and successors. -/
def pickPend (home : Nat → Nat) (es older : List Pend) (slice : Nat) : Option (List Pend × Pend × List Pend) :=
  match es with
  | [] => none
  | e :: r =>
    if (match e.kind with | .mark _ => true | _ => false) then
      if older.isEmpty then some (older, e, r) else none
    else if e.slice = slice then
      if older.any fun x => home x.line == home e.line then none else some (older, e, r)
    else pickPend home r (older ++ [e]) slice

/-- The line at which a line's home now stands (R286, R302). -/
def Work.homeLine (w : Work) (line : Nat) : Nat := lineOf (w.redirect (line * 128))

/-- Performs the oldest write of one slice of the block that issues. -/
def Work.performSlice (w : Work) (slice : Nat) : Work :=
  match pickPend w.homeLine w.dev.blk.pend [] slice with
  | none => w
  | some (before, e, after) =>
    let (ok, w) := w.performEntry e
    if ok then { w with dev := { w.dev with blk := { w.dev.blk with pend := before ++ after } } }
    else w

/-- Requires every committed write of the block performed. -/
def drainAll : M Unit := do
  if (← getBlk).pend = [] then pure ()
  else do
    modify Work.drain
    if (← getBlk).pend = [] then pure () else stay

/-- Requires them performed and acknowledged (R296). -/
def drainAcked : M Unit := do
  drainAll
  let d ← getDev
  if (d.unacked d.blk.id.key).isEmpty then pure () else stay

/-- Requires the committed writes that a read of these lines must follow, wherever their homes now are (R294,
R302). -/
def drainFor (lines : List Nat) : M Unit := do
  let w ← get
  let ls := lines.map w.homeLine
  if w.dev.blk.pend.any fun e => ls.contains (w.homeLine e.line) then drainAll else pure ()

/-- An entry is a mark. -/
def Pend.isMark (e : Pend) : Bool := match e.kind with | .mark _ => true | _ => false

/-- Requires the committed writes that a write of these slices to these lines must follow, performed before it without
passing through a queue (R294, R297, R301). -/
def drainBefore (slices lines : List Nat) : M Unit := do
  let w ← get
  let ls := lines.map w.homeLine
  if w.dev.blk.pend.any fun e => e.isMark || slices.contains e.slice || ls.contains (w.homeLine e.line) then
    drainAll
  let d ← getDev
  if (d.unacked d.blk.id.key).any fun r => slices.contains r.slice && r.elem.isNone then stay

/-- Queues committed writes (R267). -/
def enqueue (es : List Pend) : M Unit := modifyBlk fun b => { b with pend := b.pend ++ es }

/-- The entries that a committed write takes in its slice store queue: one for each 16-byte segment (R321). -/
def Pend.entries (e : Pend) : Nat :=
  match e.kind with
  | .bytes bs => ((bs.map fun c => c.1 / 16).eraseDups).length
  | .merge _ _ _ | .add _ _ _ _ => 1
  | .mark _ => 0

/-- The entries of a slice store queue (R321). -/
def queueSize (slice : Nat) : Nat := if slice = 16 then 16 else 32

/-- Entries of some committed writes that stand in a slice. -/
def entriesIn (slice : Nat) (es : List Pend) : Nat := ((es.filter (·.slice == slice)).map Pend.entries).sum

/-- The entries that stand in the slice store queue which a slice of the block uses: a lane group's, or the
partition's (R291, R321). -/
def Dev.entriesOf (d : Dev) (slice : Nat) : Nat :=
  let p := d.blk.place
  ((d.blocks.filter fun b => b.place.core == p.core && (slice != 16 || b.place.part == p.part)).map fun b =>
    entriesIn slice b.pend).sum

/-- The entries of a slice's store queue that are in service in the block's core (R215, R321). -/
def Dev.queueRoom (d : Dev) (slice : Nat) : Nat :=
  queueSize slice - (d.core d.blk.place.core).entriesOut.count slice

/-- The queues have room for committed writes (R321); a write larger than a queue passes through an empty one. -/
def Dev.roomFor (d : Dev) (es : List Pend) : Bool :=
  ((es.map (·.slice)).eraseDups).all fun s =>
    d.entriesOf s + Nat.min (entriesIn s es) (d.queueRoom s) ≤ d.queueRoom s

/-- Requires room for committed writes, which a full queue lacks until older ones are performed (R321). -/
def needRoom (es : List Pend) : M Unit := do
  if (← getDev).roomFor es then pure ()
  else do
    modify Work.drain
    if (← getDev).roomFor es then pure () else stay

/-- Queues the mark of a join or a release behind older writes. -/
def enqueueMark (release : Bool) : M Unit := do
  let d ← getDev
  if d.blk.pend = [] && (!release || (d.unacked d.blk.id.key).isEmpty) then pure ()
  else enqueue [{ slice := 17, line := 0, kind := .mark release, poison := false, bypass := false }]

/-- The order of an instruction's elements that stand one after the other for every observer (R267, R271, R299, R300): each
behind the acknowledgement of the one before it. -/
def chained (es : List Pend) : List Pend :=
  match es with
  | [] => []
  | e :: r => e :: { slice := 17, line := 0, kind := .mark true, poison := false, bypass := false } :: chained r

/-- What writes that are performed at once must wait for (R267, R271): every older one, acknowledged where `acked` asks for
it (R299, R303), and homes that can take their lines. -/
def readyNow (acked : Bool) (es : List Pend) : M Unit := do
  if acked then drainAcked else drainAll
  let w ← get
  for l in (es.map (·.line)).eraseDups do
    if regionOf (l * 128) = 3 then pure () else claimLine (lineOf (w.redirect (l * 128))) true

/-- Performs them, in the order given, each in its own slice (R291); one that must wait keeps its place, and what follows
waits behind it. -/
def putNow (es : List Pend) : M Unit := do
  enqueue (chained es)
  modify Work.drain
  enqueueMark true

end Sys2Proof.Machine
end

