-- ==== Sys2Proof/Machine/ScalarMem.lean ====
section
/-! DEFINITION. Scalar loads, scalar stores and AMO (R66, R129, R130, R269, R270, R272, R279, R281). -/
namespace Sys2Proof.Machine

/-! ## Policies and order -/

/-- POISONCFG.STORE (R213). -/
inductive StorePolicy where
  | trap | write | canon
  deriving DecidableEq, Repr

def Block.storePolicy (b : Block) : StorePolicy :=
  match (b.csr.poisoncfg.extractLsb' 0 2).toNat with
  | 0 => .trap
  | 1 => .write
  | _ => .canon

/-- POISONCFG.GENNAN (R213). -/
def Block.genNan (b : Block) : Bool := b.csr.poisoncfg.getLsbD 2

/-- What an update of the block makes of a NaN that it generates, in the form and at the location given (R102, R360); log
entry 81. -/
def Block.genNanAt (b : Block) (id form loc : Nat) : GenNan :=
  if b.genNan then
    .log id { kind := 5, form := form, loc := loc, syn := 0, pc := b.pc, engine := false, key := b.id.key }
  else .off

/-- Whether the annotation releases (R294). -/
def releases (o : Os) : Bool := o.kind == .rel || o.kind == .acqrel || o.kind == .sc

/-- What must be performed before a read (R294, R299): a sequential one and one of a DEVICE or STRONG page follow every
older write, acknowledged. -/
def orderRead (o : Os) (strict : Bool) (lines : List Nat) : M Unit :=
  if o.kind == .sc || strict then drainAcked else drainFor lines

/-- How the pages of an instruction order its writes (R267, R271, R299): queued, at once in element order, or so and
in program order with every older write. -/
inductive PageOrder where
  | queued | inOrder | strict
  deriving DecidableEq, Repr

def Leaf.order (l : Leaf) : PageOrder := if l.strict then .strict else if l.hostShared then .inOrder else .queued

/-- What an instruction's writes must wait for before it commits (R267, R271, R294, R299, R303, R321). -/
def readyWrites (o : Os) (p : PageOrder) (es : List Pend) : M Unit :=
  if p != .queued then readyNow (p == .strict || releases o) es else needRoom es

/-- Hands an instruction's writes over: at once and in order for pages that ask for it, else queued, behind
a mark where the annotation releases (R267, R271, R294). -/
def putWrites (o : Os) (p : PageOrder) (es : List Pend) : M Unit := do
  if p != .queued then putNow es
  else do
    if releases o then enqueueMark true
    enqueue es

/-- Both. -/
def commitWrites (o : Os) (p : PageOrder) (es : List Pend) : M Unit := do
  readyWrites o p es
  putWrites o p es

/-- The error-log record of a canonicalised store (R213). -/
def canonRecord (pa : Nat) (c : Crumb) : M Unit := modify fun w =>
  w.errLog 3 5 (w.homeSlice pa) 0 pa c.origin.toNat (w.dev.cycle w.dev.blk.place.core)

/-- Claims for a read, in a page under a moving home (R286). -/
def readyAt (pa : Nat) : M Nat := do
  let w ← get
  let l := lineOf (w.redirect pa)
  readyLine l
  notePeerPoison l
  return l

/-- The poison that a scalar read of a line takes, if any (R130, R195). -/
def scalarPoison (line : Nat) : M (Option Crumb) := do
  return (← crumbLines [line]).head?.map (·.2)

/-- The address of a scalar access, checked for poison and alignment (R130, R272, R279). -/
def checkedAddr (a : SReg) (bytes : Nat) : M Nat := do
  if a.poison.isSome then raise .poisonAddr
  if a.val.toNat % bytes != 0 then raise .addrAlign
  return a.val.toNat

/-! ## Loads -/

/-- A scalar value of `bytes` bytes, extended (R129). -/
def extend (signed : Bool) (bytes v : Nat) : Word :=
  BitVec.ofInt 64 (intValue signed (8 * bytes) v)

/-- A scalar load (R130). -/
def scalarLoad (bytes : Nat) (signed : Bool) (d a b : Reg) (h : BitVec 1) (o : Os) : M Unit := do
  let k ← getBlk
  let va ← checkedAddr (k.addr a b) bytes
  gate
  let (pa, l) ← reachScalar va .read
  orderRead o l.strict [lineOf pa]
  let line ← readyAt pa
  let c ← scalarPoison line
  let v ← readNat pa bytes
  modify fun w => w.accessLines [(line, k.place.scalarGroup)] false (k.residency h bytes)
  dropReads
  modifyBlk fun k => k.ws d (SReg.result c (extend signed bytes v))

/-- LDB (R129). -/
def execLdb (d a b : Reg) (h : BitVec 1) (o : Os) (s : State) : Host.Outcome State Fault Refusal :=
  run s false (scalarLoad 1 true d a b h o)

/-- LDH (R129). -/
def execLdh (d a b : Reg) (h : BitVec 1) (o : Os) (s : State) : Host.Outcome State Fault Refusal :=
  run s false (scalarLoad 2 true d a b h o)

/-- LDW (R129). -/
def execLdw (d a b : Reg) (h : BitVec 1) (o : Os) (s : State) : Host.Outcome State Fault Refusal :=
  run s false (scalarLoad 4 true d a b h o)

/-- LDD (R129). -/
def execLdd (d a b : Reg) (h : BitVec 1) (o : Os) (s : State) : Host.Outcome State Fault Refusal :=
  run s false (scalarLoad 8 false d a b h o)

/-- LDBZ (R129). -/
def execLdbz (d a b : Reg) (h : BitVec 1) (o : Os) (s : State) : Host.Outcome State Fault Refusal :=
  run s false (scalarLoad 1 false d a b h o)

/-- LDHZ (R129). -/
def execLdhz (d a b : Reg) (h : BitVec 1) (o : Os) (s : State) : Host.Outcome State Fault Refusal :=
  run s false (scalarLoad 2 false d a b h o)

/-- LDWZ (R129). -/
def execLdwz (d a b : Reg) (h : BitVec 1) (o : Os) (s : State) : Host.Outcome State Fault Refusal :=
  run s false (scalarLoad 4 false d a b h o)

/-! ## Stores -/

/-- The cells of `bytes` bytes at a physical address (R5). -/
def cellsOf (pa bytes v : Nat) : List Host.Cell :=
  match bytes with
  | 0 => []
  | n + 1 => (pa, BitVec.ofNat 8 v) :: cellsOf (pa + 1) n (v / 256)

/-- A scalar store (R272): field d names the value register. -/
def scalarStore (bytes : Nat) (d a b : Reg) (h : BitVec 1) (o : Os) : M Unit := do
  let k ← getBlk
  let va ← checkedAddr (k.addr a b) bytes
  let v := k.rs d
  if v.poison.isSome && k.storePolicy == .trap then raise .poisonStore
  gate
  let (pa, l) ← reachScalar va .write
  let e : Pend := { slice := 16, line := lineOf pa, kind := .bytes (cellsOf pa bytes v.val.toNat),
                    poison := v.poison.isSome && k.storePolicy == .write,
                    bypass := (k.residency h bytes).bypass }
  commitWrites o l.order [e]
  match v.poison with
  | some c => if k.storePolicy == .canon then canonRecord pa c
  | none => pure ()

/-- STB (R272). -/
def execStb (d a b : Reg) (h : BitVec 1) (o : Os) (s : State) : Host.Outcome State Fault Refusal :=
  run s false (scalarStore 1 d a b h o)

/-- STH (R272). -/
def execSth (d a b : Reg) (h : BitVec 1) (o : Os) (s : State) : Host.Outcome State Fault Refusal :=
  run s false (scalarStore 2 d a b h o)

/-- STW (R272). -/
def execStw (d a b : Reg) (h : BitVec 1) (o : Os) (s : State) : Host.Outcome State Fault Refusal :=
  run s false (scalarStore 4 d a b h o)

/-- STD (R272). -/
def execStd (d a b : Reg) (h : BitVec 1) (o : Os) (s : State) : Host.Outcome State Fault Refusal :=
  run s false (scalarStore 8 d a b h o)

/-! ## Atomics -/

/-- The floating operation of aop 10 to 12 on patterns of a format (R93, R279, R384). -/
def fpAtom (f : Fmt) (op x v : Nat) : Nat :=
  let a := f.value x
  let b := f.value v
  f.pack .rne (if op = 10 then Num.add .rne a b else if op = 11 then a.min b else a.max b)

/-- The new value of an atomic on `n` bits, or none where nothing is written (R279). -/
def atomNew (f : Fmt) (n op old v exp : Nat) : Option Nat :=
  let lt (s : Bool) := decide (intValue s n v < intValue s n old)
  match op with
  | 0 => some ((old + v) % 2 ^ n)
  | 1 => some (old &&& v)
  | 2 => some (old ||| v)
  | 3 => some (old ^^^ v)
  | 4 => some (if lt true then v else old)
  | 5 => some (if lt true then old else v)
  | 6 => some (if lt false then v else old)
  | 7 => some (if lt false then old else v)
  | 8 => some v
  | 9 => if old = exp then some v else none
  | _ => some (fpAtom f op old v)

/-- An atomic's operand: its bits, and whether it is poison that is to be written (R279). -/
structure AtomArg where
  bits : Nat
  poison : Bool
  deriving DecidableEq, Repr

/-- The operand of an atomic under POISONCFG.STORE (R270, R279): `pattern` is what poison writes, `canon`
what replaces it. -/
def atomArg (p : StorePolicy) (c : Option Crumb) (v pattern canon : Nat) : AtomArg :=
  match c with
  | none => { bits := v, poison := false }
  | some _ => if p == .canon then { bits := canon, poison := false }
              else { bits := pattern, poison := true }

/-- One update at the home of a line of this device (R269, R279, R281): the old value, or none for a line
whose data is poison, which stands. An FP sum that is a generated NaN is poison under GENNAN (R102), as `g` says; what
later updates of the instruction then do with one. -/
def Work.atomHere (w : Work) (pa n op : Nat) (f : Fmt) (x : AtomArg) (exp : Nat) (g : GenNan) :
    (Option Nat × GenNan) × Work :=
  if (w.badLine (lineOf pa)).isSome then ((none, g), w)
  else
    let old := w.le pa (n / 8)
    let (c, w) := if op = 10 && !x.poison && f.sumMakesNan old x.bits then w.genCrumb g else (none, w)
    let x : AtomArg := match c with
      | some c => { bits := f.longPoison c, poison := true }
      | none => x
    let new := if x.poison then (if op = 9 ∧ old ≠ exp then none else some x.bits)
               else atomNew f n op old x.bits exp
    let g := (c.map GenNan.known).getD g
    match new with
    | none => ((some old, g), w)
    | some v =>
      let w := (w.putLe pa (n / 8) v).writeMeta (lineOf pa) false x.poison
      ((some old, g), { w with dev := w.dev.recopy (lineOf pa) })

/-- The answer to the atomic that the block sent for an element, if one is out (R384). -/
def Dev.atomReply (d : Dev) (elem : Nat) : Option Req :=
  d.link.reqs.find? fun r =>
    r.kind == .atomic && r.by_ == some d.blk.id.key && r.elem == some elem

/-- One atomic of the block on a peer's word (R384): sent once, then waited for; the old value, or none
where the answer is poison. -/
def atomThere (pa n op elem slice : Nat) (x : AtomArg) (exp : Nat) : M (Option Nat) := do
  let w ← get
  match w.dev.atomReply elem with
  | some r =>
    match r.answer with
    | none => stay
    | some (bs, bad) => return if bad then none else some (leNat bs % 2 ^ n)
  | none =>
    if w.linkHolds slice (lineOf pa) then stay
    else do
      set (w.sendAtom pa op (n == 64) x.bits exp x.poison (some w.dev.blk.id.key) slice (some elem))
      stay

/-- Forgets the answered atomics of the block once its instruction has used them. -/
def dropAtoms : M Unit := modifyDev fun d =>
  if d.link.reqs = [] then d
  else
    let keep := d.link.reqs.filter fun r =>
      !(r.kind == .atomic && r.by_ == some d.blk.id.key && r.elem.isSome)
    { d with link := { d.link with reqs := keep } }

/-- A peer answered with poison: the line is named to the reader (R384). -/
def peerPoison (line : Nat) : M (Option Crumb) := do
  modify fun w => w.setPoison line true
  scalarPoison line

/-- AMO (R279): field b names the operand register. -/
def amo (d a b : Reg) (op : Nat) (wide : Bool) (o : Os) : M Unit := do
  let k ← getBlk
  let n := if wide then 64 else 32
  let f := if wide then Fmt.double else Fmt.single
  if (k.rs a).poison.isSome || (op == 9 && (k.rs d).poison.isSome) then raise .poisonAddr
  let va ← checkedAddr (k.rs a) (n / 8)
  let v := k.rs b
  if v.poison.isSome && k.storePolicy == .trap then raise .poisonStore
  gate
  let (pa, l) ← reachScalar va .atomic
  let fp := op == 10
  let pattern := match v.poison with
    | some c => if fp then f.longPoison c else 0
    | none => 0
  let x := atomArg k.storePolicy v.poison (v.val.toNat % 2 ^ n) pattern (if fp then f.nanPat else 0)
  let exp := if op = 9 then (k.sv d).toNat % 2 ^ n else 0
  if releases o || l.strict then drainAcked else drainBefore [16] [lineOf pa]
  let w ← get
  let pa := w.redirect pa
  let far := regionOf pa == 3
  let old ← if far then atomThere pa n op 0 16 x exp
    else do
      claimLine (lineOf pa) true
      let g := k.genNanAt 0 0 pa
      let r ← modifyGet fun w => (w.usesL2 16 (lineOf pa) false).atomHere pa n op f x exp g
      pure r.1
  let c ← match old with
    | some _ => pure none
    | none => if far then peerPoison (lineOf pa) else scalarPoison (lineOf pa)
  match v.poison with
  | some c => if k.storePolicy == .canon then canonRecord pa c
  | none => pure ()
  dropAtoms
  let signed := !wide && op != 6 && op != 7 && op != 10
  modifyBlk fun k => k.ws d (SReg.result c (extend signed (n / 8) (old.getD 0)))

/-- AMO (R279). -/
def execAmo (d a b : Reg) (p : BitVec 4) (w : BitVec 2) (o : Os) (s : State) :
    Host.Outcome State Fault Refusal :=
  run s false (amo d a b p.toNat (w == 1) o)

end Sys2Proof.Machine
end

