-- ==== Sys2Proof/Machine/Cache.lean ====
section
/-! DEFINITION. Cache control: CPIN, CUNPIN, CEVICT and CPREF (R236, R288). -/
namespace Sys2Proof.Machine

/-- The lines of the same set whose ways are pinned or held (R232, R288). -/
def Work.takenWays (w : Work) (line : Nat) : Nat :=
  ((w.waysOf line false).filter fun x => (x.pin || x.held) && !(x.line == line && !x.away)).length

/-- The pin-refusal counter of the line's die (R288). -/
def Work.refusePin (w : Work) (line : Nat) : Work :=
  { w with dev := w.dev.bump (0x104 + w.homeDie (line * 128)) 1 }

/-- CPIN of one line (R236, R288): fetched if absent, then pinned, where its set has a way for it. -/
def Work.pinLine (w : Work) (line : Nat) (_l : Leaf) : Work :=
  if (w.dev.l2At line false).isNone && setWays ≤ w.takenWays line then w.refusePin line
  else
    let w := w.allocate line false false
    if (w.dev.l2At line false).isNone then w.refusePin line
    else { w with dev := w.dev.onL2 line fun x => { x with pin := true } }

/-- CUNPIN of one line (R288): the line stays. -/
def Work.unpinLine (w : Work) (line : Nat) (_l : Leaf) : Work :=
  { w with dev := w.dev.onL2 line fun x => { x with pin := false } }

/-- The requester-side copies of a line are invalidated and their bits cleared (R246). -/
def Work.dropCopies (w : Work) (line : Nat) : Work :=
  let m := w.meta line
  let w := if m.extractLsb' 13 2 = 0 then w else w.putMeta line (m &&& 0x9FFF#16)
  { w with dev := w.dev.dropCopy line }

/-- CEVICT of one line (R288): a held line, and one that finds no chunk, stay held. -/
def Work.evictLine (w : Work) (line : Nat) (l : Leaf) : Work :=
  let w := ({ w with dev := w.dev.onL2 line fun x => { x with pin := false, low := false } }).dropCopies line
  let (ok, w) := if l.compressed then w.writeBack line else (true, w)
  if ok && !((w.dev.l2At line false).map (·.held)).getD false then
    { w with dev := w.dev.setL2 (w.dev.unc.l2.filter fun x => !(x.line == line && !x.away)) }
  else w

/-- CPREF of one line (R235, R288): fetched at low priority if absent. -/
def Work.prefetchLine (w : Work) (line : Nat) (l : Leaf) : Work :=
  if l.type = .device then w else w.allocate line false true

/-- Acts on the lines from virtual address `va`, `n` of them; lines on pages that are not resident are
skipped (R288). -/
def cacheLines (f : Work → Nat → Leaf → Work) (va n : Nat) : M Unit :=
  match n with
  | 0 => pure ()
  | n + 1 => do
    let w ← get
    let (r, w') := w.translate w.dev.blk.space va
    match r with
    | .leaf l => set (f w' (lineOf (w'.redirect (l.pa va))) l)
    | .fault => set w'
    | .busy => do
      set w'
      stay
    cacheLines f ((va + 128) % 2 ^ 64) n

/-- CPIN, CUNPIN, CEVICT and CPREF (R288). -/
def cacheControl (a n : Reg) (f : Work → Nat → Leaf → Work) : M Unit := do
  let k ← getBlk
  if (k.rs a).poison.isSome || (k.rs n).poison.isSome then raise .poisonAddr
  let len := (k.sv n).toNat
  if 2 ^ 30 < len then raise .engineDesc
  if len = 0 then pure ()
  else do
    drainAll
    let va := (k.sv a).toNat
    cacheLines f (va / 128 * 128) ((va % 128 + len + 127) / 128)

/-- CPIN (R288). -/
def execCpin (a b : Reg) (s : State) : Host.Outcome State Fault Refusal :=
  run s true (cacheControl a b Work.pinLine)

/-- CUNPIN (R288). -/
def execCunpin (a b : Reg) (s : State) : Host.Outcome State Fault Refusal :=
  run s true (cacheControl a b Work.unpinLine)

/-- CEVICT (R288). -/
def execCevict (a b : Reg) (s : State) : Host.Outcome State Fault Refusal :=
  run s true (cacheControl a b Work.evictLine)

/-- CPREF (R288). -/
def execCpref (a b : Reg) (s : State) : Host.Outcome State Fault Refusal :=
  run s true (cacheControl a b Work.prefetchLine)

end Sys2Proof.Machine
end

