-- ==== Sys2Proof/Machine/Control.lean ====
section
/-! DEFINITION. Control transfer and loop capture (R52, R67, R121, R131 to R136). -/
namespace Sys2Proof.Machine

/-- Transfers to `pc` with block `b`. -/
def jump (s : State) (b : Block) (pc : Word) : Host.Outcome State Fault Refusal :=
  .next (s.commit false b pc)

/-- Transfers where the condition holds, else goes on with the next word. -/
def branch (s : State) (taken : Bool) {n : Nat} (o : BitVec n) : Host.Outcome State Fault Refusal :=
  jump s s.dev.blk (if taken then target s.dev.blk.pc o else s.dev.blk.pc + 4)

/-- B: taken when the predicate, inverted if negate is set, is true (R131, R132). -/
def execB (n : BitVec 1) (p : PredReg) (o : BitVec 22) (s : State) :
    Host.Outcome State Fault Refusal :=
  let q := s.dev.blk.rp_ p
  if q.poison.isSome then trapNow s .poisonBranch else branch s (q.val != (n == 1)) o

/-- BZ: taken when s_a is zero (R131, R132). -/
def execBz (a : Reg) (o : BitVec 20) (s : State) : Host.Outcome State Fault Refusal :=
  let x := s.dev.blk.rs a
  if x.poison.isSome then trapNow s .poisonBranch else branch s (x.val == 0) o

/-- BNZ: taken when s_a is not zero (R131, R132). -/
def execBnz (a : Reg) (o : BitVec 20) (s : State) : Host.Outcome State Fault Refusal :=
  let x := s.dev.blk.rs a
  if x.poison.isSome then trapNow s .poisonBranch else branch s (x.val != 0) o

/-- J (R131). -/
def execJ (o : BitVec 21) (s : State) : Host.Outcome State Fault Refusal :=
  branch s true o

/-- JAL: links and transfers (R131). -/
def execJal (d : Reg) (o : BitVec 21) (s : State) : Host.Outcome State Fault Refusal :=
  let k := s.dev.blk
  jump s (k.ws d (SReg.plain (k.pc + 4))) (target k.pc o)

/-- JR: reads s_a first, then links (R131, R132). -/
def execJr (d a : Reg) (s : State) : Host.Outcome State Fault Refusal :=
  let k := s.dev.blk
  let x := k.rs a
  if x.poison.isSome then trapNow s .poisonAddr
  else if x.val.extractLsb' 0 2 != 0 then trapNow s .pcAlign
  else jump s (k.ws d (SReg.plain (k.pc + 4))) x.val

/-! ## Loop capture -/

/-- The major opcode of a word (R52). -/
def majorOf (w : Insn) : Nat := (w.extractLsb' 26 6).toNat

/-- A word that keeps its loop from being captured (R135). -/
def barsCapture (w : Insn) : Bool :=
  let m := majorOf w
  (0x10 ≤ m && m ≤ 0x15) || (m == 0x16 && w.extractLsb' 14 2 != 0) || m == 0x17 || m == 0x31 ||
    m == 0x36

/-- A tile-side word (R135). -/
def tileSide (w : Insn) : Bool := 0x18 ≤ majorOf w && majorOf w ≤ 0x37

/-- What capture finds at an address, or in a body: words, a condition that fails, or words that have not come yet. -/
inductive Captured (α : Type) where
  | words (x : α)
  | barred
  | pending

/-- A word of code as the block may fetch it, without a batch (R121); log entry 83. -/
def Work.codeAt (w : Work) (pc : Nat) : Captured Insn × Work :=
  let b := w.dev.blk
  match w.translate b.space pc with
  | (.leaf l, w) =>
    if l.allows b.ps.pl .fetch then
      match w.codeWord (l.pa pc) with
      | (some v, w) => (.words (BitVec.ofNat 32 v), w)
      | (none, w) => (.pending, w)
    else (.barred, w)
  | (.busy, w) => (.pending, w)
  | (.fault, w) => (.barred, w)

/-- The captured words of a body of `n` words from `pc` (R135): `lane` body words of a lane function are
still to come, and `room` entries are free. -/
def Work.captureBody (w : Work) (n pc lane room : Nat) : Captured (List (Nat × Insn)) × Work :=
  match n with
  | 0 => (.words [], w)
  | n + 1 =>
    match w.codeAt pc with
    | (.barred, w) => (.barred, w)
    | (.pending, w) => (.pending, w)
    | (.words x, w) =>
      if lane ≠ 0 || tileSide x then
        if room = 0 || (lane = 0 && barsCapture x) then (.barred, w)
        else
          let lane := if lane ≠ 0 then lane - 1
                      else if majorOf x = 0x1F then (x.extractLsb' 0 5).toNat + 1 else 0
          match w.captureBody n (pc + 4) lane (room - 1) with
          | (.words ws, w) => (.words ((pc, x) :: ws), w)
          | r => r
      else if barsCapture x then (.barred, w)
      else w.captureBody n (pc + 4) 0 room

/-- Captures the body that a LOOP at `last` has branched back to (R135), and whether all of it has come: what a peer's memory
holds is read there first. -/
def Work.capture (w : Work) (start last : Word) : Bool × Work :=
  if w.dev.blk.loop.isSome then (true, w)
  else match w.captureBody ((last.toNat - start.toNat) / 4) start.toNat 0 32 with
    | (.pending, w) => (false, w)
    | (.barred, w) | (.words [], w) => (true, w)
    | (.words ws, w) =>
      let buf : LoopBuf := { words := ws, start := start, last := last }
      (true, { w with dev := { w.dev with blk := { w.dev.blk with loop := some buf } } })

/-- LOOP (R133): the counter goes down and the body runs again while it was above 1; the buffer empties
where its LOOP falls through (R136). -/
def execLoop (d : Reg) (o : BitVec 16) (s : State) : Host.Outcome State Fault Refusal :=
  let k := s.dev.blk
  let x := k.rs d
  if x.poison.isSome then trapNow s .poisonBranch
  else if x.val.toNat ≤ 1 then
    let keep := k.loop.filter fun l => l.last != k.pc
    done s { k.ws d (SReg.plain 0) with loop := keep }
  else
    let t := target k.pc o
    match (Work.start s).capture t k.pc with
    | (false, w) => .next ((stopped s .stay w).settle s)
    | (true, w) =>
      let b := w.dev.blk.ws d (SReg.plain (x.val - 1))
      .next ({ w with dev := w.dev.commit false b t }.settle s)

end Sys2Proof.Machine
end

