-- ==== Sys2Proof/Machine/Capability.lean ====
section
/-! DEFINITION. The capability list: the grade, the live units, and the bytes that firmware writes of them (R15, R20, R24,
R25, R365, R366, R389). -/
namespace Sys2Proof.Machine

/-! ## The grade -/

/-- The live pseudo-channels of a stack (R24, R240). -/
def Stack.liveCount (s : Stack) : Nat := ((s.live s.gen).filter fun c => !(s.dead s.gen).contains c).length

/-- Every unit of R24 is in service: cores with every lane group, 61 live channels a stack, every port on 4 lanes. -/
def Dev.fullGrade (d : Dev) : Bool :=
  (d.cores.all fun x => x.2.live && x.2.fenced == 0) && ((List.range 24).all fun s => (d.stack s).liveCount == 61) &&
    d.link.ports.toList.all fun p => p.lanes == 4

/-! ## The payloads -/

/-- The part number of R366, 16 bytes of ASCII. -/
def partNumber : List Byte := [0x4B, 0x5A, 0x53, 0x2D, 0x39, 0x36, 0x30, 0x2D, 0x41, 0, 0, 0, 0, 0, 0, 0]

/-- Entry 0x0001: the part, architecture 3, the identity and the grade (R366). -/
def Firmware.identity (f : Firmware) : List Byte :=
  partNumber ++ natLe 1 3 ++ natLe 2 f.deviceId ++ natLe 2 f.domain ++ natLe 1 (if f.degraded then 1 else 0) ++ natLe 2 0

/-- Entry 0x0002: live cores, and the fenced lane groups of each (R366). -/
def Dev.coreList (d : Dev) : List Byte :=
  let cs := (List.range Config.cores).map d.core
  natLe 40 ((cs.zipIdx.map fun x => if x.1.live then 2 ^ x.2 else 0).sum) ++ cs.flatMap fun c => natLe 2 c.fenced.toNat

/-- Entry 0x0003: the carve table, the miss threshold, the live slices, and each stack (R366). -/
def Dev.memoryList (d : Dev) : List Byte :=
  natLe 8 d.fw.carveTable ++ natLe 4 d.fw.missLimit ++ natLe 4 0 ++ natLe 32 d.fw.slices ++
    (List.range 24).flatMap fun i =>
      let s := d.stack i
      natLe 1 s.liveCount ++ natLe 1 s.spares ++ natLe 1 s.gen ++ natLe 1 0

/-- A port's state (R389): down, training, up, or degraded. -/
def Port.state (p : Port) : Nat := if p.lanes = 0 then 0 else if p.training then 1 else if p.lanes = 4 then 2 else 3

/-- Entry 0x0007 (R389). -/
def Dev.portList (d : Dev) : List Byte :=
  natLe 8 d.fw.routing ++ d.link.ports.toList.flatMap fun p =>
    natLe 1 p.lanes ++ natLe 1 p.version ++ natLe 2 (p.partner % 1024 + 1024 * (p.partnerPort % 32)) ++
      natLe 1 p.state ++ natLe 3 0

/-- Entry 0x0008 (R389). -/
def Firmware.hostList (f : Firmware) : List Byte :=
  natLe 8 f.windowBase ++ natLe 8 f.windowLen ++ natLe 1 f.width ++ natLe 1 f.rate ++ natLe 1 f.vfs ++ natLe 5 0 ++
    (List.range 8).flatMap fun x =>
      match f.expanders[x]? with
      | some e => natLe 8 (e.base + 1 + 2 * (e.port % 2)) ++ natLe 8 e.len
      | none => natLe 16 0

/-- The entries of R366, in their order. -/
def Dev.capEntries (d : Dev) : List (Nat × List Byte) :=
  [(0, natLe 8 d.fw.generation), (1, d.fw.identity), (2, d.coreList), (3, d.memoryList),
   (4, natLe 8 d.fw.queueTable ++ natLe 8 Config.launchEntries), (5, natLe 8 d.fw.ctxTable ++ natLe 8 d.fw.mirror),
   (6, natLe 8 0), (7, d.portList), (8, d.fw.hostList)]

/-- The list's bytes from an offset on: headers, payloads, each entry on a 16-byte boundary (R365). -/
def capBytes (at_ : Nat) (es : List (Nat × List Byte)) : List Byte :=
  match es with
  | [] => []
  | (id, p) :: r =>
    let size := (16 + p.length + 15) / 16 * 16
    natLe 2 id ++ natLe 1 1 ++ natLe 1 0 ++ natLe 4 p.length ++ natLe 8 (if r = [] then 0 else at_ + size) ++ p ++
      List.replicate (size - 16 - p.length) 0 ++ capBytes (at_ + size) r

/-- A change of grade, of a unit count or of a port's state (R25, R389): firmware reports what changes in one clock in one
update of the list. -/
def Work.reportUnits (w : Work) : Work :=
  let f := w.dev.fw
  let f := { f with degraded := !w.dev.fullGrade, changed := some (f.changed.getD w.dev.clock) }
  { w with dev := { w.dev with fw := f } }

/-- The list as the device stands (R365). -/
def Dev.capList (d : Dev) : List Byte := capBytes 0 d.capEntries

/-- The bytes of the list's first entry, that of the generation (R365). -/
def firstEntry : Nat := 32

/-- The ports have trained once the list has shown it (R389). -/
def Dev.trained (d : Dev) : Dev :=
  if d.link.ports.toList.any (·.training) then
    let ports := Vector.ofFn fun i => { d.link.ports[i] with training := false }
    { d with link := { d.link with ports := ports }, fw := { d.fw with changed := some (d.fw.changed.getD d.clock) } }
  else d

/-- Firmware brings the list up to date (R25, R365): in a clock after a change it makes the generation odd, and at a step after
that it writes the entries and makes the generation even. -/
def Work.updateList (w : Work) : Work :=
  let f := w.dev.fw
  if w.dev.svc.stage != .running then w
  else if f.generation % 2 = 1 then
    let d := { w.dev with fw := { f with generation := f.generation + 1 } }
    let bs := d.capList
    (({ w with dev := d.trained }).ownWrite (f.capList + firstEntry) (bs.drop firstEntry)).ownWrite f.capList
      (bs.take firstEntry)
  else match f.changed with
    | none => w
    | some c =>
      if c < w.dev.clock then
        let d := { w.dev with fw := { f with generation := f.generation + 1, changed := none } }
        ({ w with dev := d }).ownWrite f.capList (d.capList.take firstEntry)
      else w

/-- The carve table as firmware writes it at boot (R352): every space unbacked, every stack at its defaults, with an empty
free list. -/
def carveBytes : List Byte :=
  List.replicate 1440 0 ++ (List.range 24).flatMap fun _ =>
    natLe 4 0xFFFFFFFF ++ natLe 4 0 ++ natLe 4 4096 ++ natLe 4 1024 ++ natLe 48 0

end Sys2Proof.Machine
end

