-- ==== Sys2Proof/Machine/Engines.lean ====
section
/-! DEFINITION. Copy engines: the operations of COPY, COPYZ, COPYG and COPYX (R46, R47, R282 to R287, R298, R302,
R369, R370, R387).

An operation acts with its issuing block's context, as an agent of its own: for the length of one piece of
its work a block that stands for it takes the place of the block that issues. -/
namespace Sys2Proof.Machine

/-! ## Operations -/

/-- The number under which a translation is done for an engine operation, apart from any LAUNCHID. -/
def agentKey (num : Nat) : BlockKey := { lid := 2 ^ 64 + num, lin := 0 }

/-- The block that stands for an agent of a device. -/
def agentBlock (num : Nat) (who : BlockId) (core : Nat) (level : Level) (pc : Word) : Block :=
  { Block.none with
    id := { who with key := agentKey num }, place := { Place.none with core := core },
    ps := { Pstate.reset with pl := level }, pc := pc }

def Op.agent (o : Op) : Block := agentBlock o.num o.who o.core o.level o.pc

/-- Runs `m` with `b` in the place of the block that issues; none where it must wait. -/
def Work.actAs {α : Type} (w : Work) (b : Block) (m : M α) : Option α × Work :=
  let old := w.dev.blk
  match m { w with dev := { w.dev with blk := b } } with
  | .ok x w' => (some x, { w' with dev := { w'.dev with blk := old } })
  | .error _ w' => (none, { w' with dev := { w'.dev with blk := old } })

/-- An operation by its number. -/
def Dev.op (d : Dev) (num : Nat) : Option Op := d.eng.ops.find? (·.num == num)

/-- Changes an operation. -/
def Dev.onOp (d : Dev) (num : Nat) (f : Op → Op) : Dev :=
  { d with eng := { d.eng with ops := d.eng.ops.map fun o => if o.num = num then f o else o } }

/-- Removes an operation. -/
def Dev.dropOp (d : Dev) (num : Nat) : Dev :=
  { d with eng := { d.eng with ops := d.eng.ops.filter (·.num != num) } }

/-- A fill that has not ended (R343). -/
def StreamQueue.filling (q : StreamQueue) : Bool := q.st == .filling || q.st == .faulted

/-- The commands that an engine of a core holds (R47), fills of stream queues among them. -/
def Dev.engineLoad (d : Dev) (core engine : Nat) : Nat :=
  (d.eng.ops.filter fun o => o.core == core && o.engine == engine).length +
    ((d.blocks.filter (·.place.core == core)).map fun b =>
      (b.queues.toList.filter fun q => q.filling && q.engine == engine).length).sum

/-- The engine that takes a command (R282); none while both hold 32 (R47). -/
def Dev.pickEngine (d : Dev) (core : Nat) : Option Nat :=
  let a := d.engineLoad core 0
  let b := d.engineLoad core 1
  if 32 ≤ a && 32 ≤ b then none else if b < a then some 1 else some 0

/-- The bytes, elements or lines that an operation works through. -/
def OpKind.total (k : OpKind) : Nat :=
  match k with
  | .copy _ _ n _ => n
  | .zero _ n => n
  | .gather _ _ _ _ _ _ n => n
  | .move _ _ _ _ _ _ size _ _ _ => size / 128
  | .launch .. => 1

/-! ## One piece of work -/

/-- How a piece of an operation ended: performed, or at a page that forbids the access or does not
translate. -/
inductive Piece where
  | done
  | breach (va : Nat)
  | fault (va : Nat)
  deriving DecidableEq, Repr

/-- Translates for an operation, by the stream register of its engine or by the gather TLB (R353). -/
def engineReach (u : TlbUnit) (va : Nat) (a : Access) (k : Nat → Leaf → M Piece) : M Piece := do
  match ← reach u (wrap va) a with
  | .ok pa l => k pa l
  | .breach => return .breach (wrap va)
  | .fault => return .fault (wrap va)
where wrap (n : Nat) : Nat := n % 2 ^ 64

/-- An access of a copy engine as L2 sees it: it allocates, at low priority (R235, R268). -/
def engineAccess (line : Nat) (write : Bool) : M Unit := modify fun w =>
  w.accessL2 line write { bypass := false, low := true }

/-- The crumbs of an operation with the merge flag of the last one set (R284). -/
def mergeLast (cs : List (Nat × Crumb)) : List (Nat × Crumb) :=
  match cs.getLast? with
  | none => cs
  | some (l, c) => cs.dropLast ++ [(l, { c with merged := true })]

/-- A source line is poison: the operation logs it once, and 32 lines at most, of which the 32nd then has its merge flag set
(R284). The flag is one of the crumb's: a crumb-log entry has no place for it (R360); log entry 89. -/
def Op.noteBad (o : Op) (line : Nat) : M Bool := do
  let w ← get
  if (w.badLine line).isNone then return false
  else do
    let seen := ((w.dev.op o.num).map (·.crumbs)).getD []
    if seen.any (·.1 == line) then modify (·.noteUpset line)
    else if seen.length < 32 then do
      let (cs, w') := w.lineCrumbs [line] seen.length { origin := 0, merged := false } o.pc true o.who.key
        o.who.ctx
      set { w' with dev := w'.dev.onOp o.num fun o => { o with crumbs := o.crumbs ++ cs } }
    else
      modify fun w =>
        let w := w.noteUpset line
        { w with dev := w.dev.onOp o.num fun o => { o with crumbs := mergeLast o.crumbs } }
    return true

/-- The bytes of one line at a physical address. -/
def readRun (pa n : Nat) : M (List Byte) :=
  match n with
  | 0 => pure []
  | n + 1 => do
    let b ← readByte pa
    return b :: (← readRun (pa + 1) n)

/-- Reads `n` bytes that lie in one line, with the line's poison. -/
def Op.read (o : Op) (u : TlbUnit) (va n : Nat) (k : List Byte → Bool → M Piece) : M Piece :=
  engineReach u va .read fun pa _ => do
    let line ← readyAt pa
    let bad ← o.noteBad line
    let bs ← readRun pa n
    engineAccess line false
    k bs bad

/-- Reads `n` bytes that may lie in two lines. -/
def Op.readTwo (o : Op) (u : TlbUnit) (va n : Nat) (k : List Byte → Bool → M Piece) : M Piece :=
  let first := Nat.min n (128 - va % 128)
  o.read u va first fun bs bad =>
    if n ≤ first then k bs bad
    else o.read u (va + first) (n - first) fun bs' bad' => k (bs ++ bs') (bad || bad')

/-- The cells of bytes from a physical address. -/
def cellsFrom (pa : Nat) (bs : List Byte) : List Host.Cell :=
  match bs with
  | [] => []
  | b :: r => (pa, b) :: cellsFrom (pa + 1) r

/-- Requires that the home may take a write to a line, and that no write of the agent to it is on its
way; where the writes stand in order, no write of the agent at all (R271, R300). -/
def readyWrite (pa : Nat) (ordered : Bool) : M Unit := do
  let d ← getDev
  if (d.unacked d.blk.id.key).any fun r => ordered || r.line == lineOf pa then stay
  else if regionOf pa = 3 then pure ()
  else claimLine (lineOf pa) true

/-- Performs bytes of one line; the agent's reads have served. -/
def performRun (pa : Nat) (bs : List Byte) (poison : Bool) : M Unit := do
  dropReads
  modify fun w => w.performBytes (lineOf pa) (cellsFrom pa bs) poison 16

/-- Writes bytes of one line. -/
def engineWrite (u : TlbUnit) (va : Nat) (k : (List Byte → Bool → M Piece) → M Piece) : M Piece :=
  engineReach u va .write fun pa l => do
    let pa := (← get).redirect pa
    readyWrite pa l.inOrder
    k fun bs poison => do
      performRun pa bs poison
      engineAccess (lineOf pa) true
      return .done

/-- The value that a byte of the source gives a COPY whose ranges overlap (R283): what it was, or what this
copy wrote. -/
def overlapped (ov : List Host.Cell) (va : Nat) (bs : List Byte) : M (List Byte) :=
  if ov = [] then pure bs else
  match bs with
  | [] => pure []
  | b :: r => do
    let n ← nextFresh
    let old := (journalAt ov va).getD b
    return (if Config.freeChoice n % 2 = 0 then old else b) :: (← overlapped ov (va + 1) r)

/-- Source bytes not read yet that a write to `va` replaces. -/
def replacing (va : Nat) (old : List Byte) (lo hi : Nat) : List Host.Cell :=
  (cellsFrom va old).filter fun c => lo ≤ c.1 && c.1 < hi

/-- The stream register of an operation's engine; a walker's operation has the walker's (R353). -/
def Op.unit (o : Op) : TlbUnit := if o.engine = 2 then .walker else .copy o.engine

/-- COPY: up to the end of the destination's line (R283, R284). -/
def Op.copyPiece (o : Op) (dst src len : Nat) (ov : List Host.Cell) (n : Nat) : M Piece :=
  let dest := dst + o.done
  let at_ := src + o.done
  engineReach o.unit dest .write fun pa l => do
    let pa := (← get).redirect pa
    readyWrite pa l.inOrder
    o.readTwo o.unit at_ n fun bs bad => do
      let bs ← overlapped ov at_ bs
      if at_ < dest && dest < src + len then do
        let old ← readRun pa n
        let more := replacing dest old (at_ + n) (src + len)
        modifyDev fun d => d.onOp o.num fun o =>
          match o.kind with
          | .copy d s l v => { o with kind := .copy d s l (v ++ more) }
          | _ => o
      performRun pa bs bad
      engineAccess (lineOf pa) true
      return .done

/-- COPYZ (R283, R284). -/
def Op.zeroPiece (o : Op) (dst n : Nat) : M Piece :=
  engineWrite o.unit dst fun put => put (List.replicate n 0) false

/-- COPYG: one element (R285). -/
def Op.gatherPiece (o : Op) (dst base list z : Nat) (wide signed : Bool) : M Piece :=
  let wb := if wide then 8 else 4
  engineWrite o.unit (dst + o.done * z) fun put =>
    o.read o.unit (list + o.done * wb) wb fun bs bad =>
      let i := leNat bs
      if bad then put (List.replicate z 0) true
      else if i = 2 ^ (8 * wb) - 1 then put (List.replicate z 0) false
      else
        let va := (BitVec.ofInt 64 (base + intValue signed (8 * wb) i * z)).toNat
        o.read .gather va z put

/-- The bytes that the next piece of an operation takes. -/
def Op.span (o : Op) : Nat :=
  match o.kind with
  | .copy dst _ n _ | .zero dst n => Nat.min (n - o.done) (128 - (dst.toNat + o.done) % 128)
  | .gather .. | .move .. | .launch .. => 1

/-- COPYX phase 3: one line with its metadata; a line that cannot be read, or that lies on a dead channel,
arrives poisoned (R286, R287). -/
def Work.moveLine (w : Work) (old new : Nat) : Work :=
  if old = new then w
  else
    let bad := (w.badLine old).isSome
    let dead := w.onDeadChannel new
    let w := w.noteUpset old
    let m := w.meta old
    let m := if bad || dead then m ||| 0x8000#16 else m
    let w := (w.putBytes (new * 128) (w.bytes (old * 128) 128)).putMeta new m
    if dead then w.holdLine new else w

/-- COPYX phase 3: one line (R286); one on a channel that is being copied to a spare waits (R240, R248). -/
def Op.movePiece (o : Op) (oldPa newPa : Nat) : M Piece := do
  let old := oldPa / 128 + o.done
  let new := newPa / 128 + o.done
  let w ← get
  if w.onCopying old || w.onCopying new then stay
  else do
    set ((w.homeL2 old { bypass := false, low := true }).moveLine old new)
    return .done

/-- The next piece of an operation. -/
def Op.piece (o : Op) : M Piece :=
  match o.kind with
  | .copy dst src len ov => o.copyPiece dst.toNat src.toNat len ov o.span
  | .zero dst _ => o.zeroPiece (dst.toNat + o.done) o.span
  | .gather dst base list z wide signed _ =>
    o.gatherPiece dst.toNat base.toNat list.toNat z wide signed
  | .move _ _ oldPa _ newPa _ _ _ .copying _ => o.movePiece oldPa newPa
  | .move .. | .launch .. => stay

/-! ## Faults and abandonment -/

/-- The LAUNCHID and BLOCKID.L that a record of an engine carries (R344). -/
def engineRec (who : BlockId) (kind : RecKind) (pages : Nat) (one : Bool) (rest : List Byte) : Rec :=
  { kind := kind, pages := pages, onePage := one, engine := true, ctxid := who.ctxid, lid := who.key.lid,
    bid := who.logical.toNat, rest := rest }

/-- The FAULT_BATCH of an engine (R344): the PC is 0, and the completion word is named. -/
def engineBatch (who : BlockId) (cwVa : Word) (va : Nat) (one : Bool) : Rec :=
  engineRec who .faultBatch 1 one
    (natLe 8 0 ++ natLe 8 0 ++ natLe 8 cwVa.toNat ++ natLe 8 0 ++ natLe 8 (pageOf va))

/-- The ABANDON record (R344). -/
def abandonRec (who : BlockId) (va cwVa : Word) (reason : Nat) : Rec :=
  engineRec who .abandon 0 false (natLe 8 va.toNat ++ natLe 8 cwVa.toNat ++ natLe 1 reason)

/-- The reason of an answer that ends an operation (R344). -/
def Answer.reason (a : Answer) : Option Nat :=
  match a with
  | .refused => some 1
  | .unresolvable => some 2
  | .serviced | .onePage => none

/-- The operation waits on a batch (R282); at a full queue it stays at its fault point (R345). -/
def Work.opBatch (w : Work) (o : Op) (va : Nat) : Work :=
  match w.sendBatch o.who.fn (.op o.num) (engineBatch o.who o.cwVa va o.onePage) with
  | none => w
  | some (id, w') =>
    { w' with dev := w'.dev.onOp o.num fun o => { o with batch := some id, va := BitVec.ofNat 64 va } }

/-- Marks an operation as one to be abandoned (R282). -/
def Dev.spoilOp (d : Dev) (num reason : Nat) (va : Word) : Dev :=
  d.onOp num fun o => { o with bad := some reason, va := va }

/-- Takes the answer to the operation's batch (R282, R345): whether it may go on. -/
def Work.opAnswer (w : Work) (o : Op) : Bool × Work :=
  match o.batch with
  | none => (true, w)
  | some id =>
    match w.dev.answer id with
    | none => (false, w)
    | some a =>
      let d := (w.dev.closeBatch id).onOp o.num fun o =>
        { o with batch := none, onePage := o.onePage || a == .onePage }
      match a.reason with
      | some r => (false, { w with dev := d.spoilOp o.num r o.va })
      | none => (true, { w with dev := d })

/-- Works an operation on until it waits or its work is done. -/
def Work.pump (w : Work) (num fuel : Nat) : Work :=
  match fuel with
  | 0 => w
  | f + 1 =>
    match w.dev.op num with
    | none => w
    | some o =>
      if o.kind.total ≤ o.done || o.bad.isSome then w
      else
        match w.actAs o.agent o.piece with
        | (some .done, w) =>
          Work.pump { w with dev := w.dev.onOp num fun x => { x with done := o.done + o.span } } num f
        | (some (.breach va), w) => { w with dev := w.dev.spoilOp num 3 (BitVec.ofNat 64 va) }
        | (some (.fault va), w) => w.opBatch o va
        | (none, w) => w

/-- Appends an engine's record at once, where its queue has room (R345). -/
def Work.tryRec (w : Work) (fn : Nat) (r : Rec) : Option Work :=
  if w.dev.fq.held.any (·.fn == fn) then none else (w.append fn r).map (·.2)

/-! ## COPYX -/

/-- The entry of a page with its MIGRATING bit written (R286). -/
def Work.setMigrating (w : Work) (entry : Nat) (on : Bool) : Work :=
  let b := w.byte (entry + 1)
  w.putByte (entry + 1) (if on then b ||| 0x40#8 else b &&& 0xBF#8)

/-- The entry's atomic write of phase 4: placement, offset, MIGRATING cleared (R286, R350). -/
def Work.switchEntry (w : Work) (entry : Nat) (pl : BitVec 32) (o : Nat) : Work :=
  let low := w.le entry 2
  ((w.putLe entry 2 (low - low / 2 ^ 14 % 2 * 2 ^ 14)).putLe (entry + 2) 6 (o / 65536)).putLe (entry + 8) 4
    pl.toNat

/-- MIGRATING in the entry of a page, and in the record of a compressed one (R242, R286); its translations are shot
down. -/
def Work.markMigrating (w : Work) (entry line : Nat) (compressed on : Bool) : Work :=
  let w := w.setMigrating entry on
  let w := if compressed then w.markRecord line on else w
  { w with dev := { w.dev with unc := w.dev.unc.shootdown entry } }

/-- What a device that holds a copy of a line of the page receives (R387). -/
def Work.homeNews (w : Work) (line : Nat) : List (Nat × LinkOp) :=
  let m := w.homeMeta line
  let v2 (d : Nat) : Bool := w.pathVersion d == 2
  match metaState m with
  | 0 => []
  | 1 | 2 | 5 => [(metaParty m, if v2 (metaParty m) then .reHome else .recall)]
  | 3 => [(metaParty m, if v2 (metaParty m) then .reHome else .inv)]
  | _ => (groupDevices (metaParty m) w.dev.fw.deviceId).map fun d => (d, if v2 d then .reHome else .inv)

def LinkOp.reqKind (o : LinkOp) : ReqKind :=
  match o with
  | .recall => .recall
  | .inv => .inv
  | _ => .reHome

/-- Sends one of them, unless it is on its way or answered. -/
def Work.sendNews (w : Work) (line new : Nat) (x : Nat × LinkOp) : Work :=
  if w.dev.link.reqs.any fun r => r.peer == x.1 && r.line == line && r.kind == x.2.reqKind then w
  else
    let (tag, d) := w.dev.takeTag
    let r : Req := { tag := tag, kind := x.2.reqKind, peer := x.1, line := line, by_ := none, slice := 0,
                     elem := none, expect := none, answer := none }
    let d := { d with link := { d.link with reqs := d.link.reqs ++ [r] } }
    ({ w with dev := d }).post
      { plainMsg x.2 x.1 tag line with extra := if x.2 == LinkOp.reHome then new % 2 ^ 42 else 0 } 0

/-- Every peer of a line has answered (R286, R386). -/
def Work.newsDone (w : Work) (line : Nat) : Bool :=
  (w.homeNews line).all fun x => w.dev.link.reqs.any fun r =>
    r.peer == x.1 && r.line == line && r.kind == x.2.reqKind && r.answer.isSome

/-- The metadata that moves with a line (R286, R387): copies cleared, the holders that stay. -/
def Work.movedMeta (w : Work) (line : Nat) : BitVec 16 :=
  let m := w.homeMeta line &&& 0x9FFF#16
  let v2 (d : Nat) : Bool := w.pathVersion d == 2
  match metaState m with
  | 0 => m
  | 1 | 2 | 3 | 5 => if v2 (metaParty m) then m else metaWith m 0 0
  | _ =>
    let keep := (List.range 10).foldl (fun a g =>
      if (metaParty m).testBit g && (groupDevices (2 ^ g) w.dev.fw.deviceId).any v2 then a + 2 ^ g else a) 0
    if keep = 0 then metaWith m 0 0 else metaWith m 4 keep

/-- Data that a recalled holder returned is written at the old home (R386). -/
def Work.takeRecalled (w : Work) (line : Nat) : Work :=
  match w.dev.link.reqs.find? fun r => r.line == line && r.kind == .recall && r.answer.isSome with
  | some r =>
    match r.answer with
    | some (bs, p) =>
      if bs = [] then w
      else
        let w := w.putBytes (line * 128) bs
        w.setPoison line p
    | none => w
  | none => w

/-- The pin of a line moves with it (R248, R302); what slices hold of its old place is gone (R286). -/
def Dev.moveL2 (d : Dev) (old new size : Nat) : Dev :=
  if old = new then d
  else
    let here (x : L2Line) : Bool := old / 128 ≤ x.line && x.line < (old + size) / 128
    let rest := d.unc.l2.filter fun x => !here x
    let pins := (d.unc.l2.filter fun x => here x && x.pin && !x.away).map fun x =>
      { newEntry (x.line - old / 128 + new / 128) false false false x.packed with pin := true, valid := x.valid }
    let old_ := rest.map fun x =>
      if !x.away && pins.any (·.line == x.line) then { x with pin := true } else x
    d.setL2 (old_ ++ pins.filter fun x => !rest.any fun y => y.line == x.line && !y.away)

/-- Phase 4 for one line (R286). -/
def Work.switchLine (w : Work) (oldPa newPa : Nat) (recopy : List Nat) (i : Nat) : Work :=
  let old := oldPa / 128 + i
  let new := newPa / 128 + i
  let m := w.movedMeta old
  let called := w.dev.link.reqs.any fun r => r.line == old && r.kind == .recall
  let w := w.takeRecalled old
  let w := if recopy.contains old || called then w.moveLine old new else w
  if old = new then w.putMeta old ((w.meta old).extractLsb' 15 1 ++ m.extractLsb' 0 15)
  else w.putMeta new ((w.meta new).extractLsb' 15 1 ++ m.extractLsb' 0 15)

/-- The physical range holds an address. -/
def inPage (pa base size : Nat) : Bool := base ≤ pa && pa < base + size

/-- Phases 4 and 5 of a COPYX (R286): what arrives for the page is stalled, what its homes had begun ends, the peers that
hold its lines are told, and once every one has answered the page switches. -/
def Work.switchPage (w : Work) (o : Op) : Work :=
  match o.kind with
  | .move va entry oldPa oldPl newPa newPl size comp .copying recopy =>
    let kind : OpKind := .move va entry oldPa oldPl newPa newPl size comp .switching recopy
    { w with dev := w.dev.onOp o.num fun o => { o with kind := kind } }
  | .move va entry oldPa oldPl newPa newPl size comp .switching recopy =>
    let lines := List.range (size / 128)
    let begun := w.dev.link.txns.any fun t => inPage (t.line * 128) oldPa size
    let w := if begun then w else lines.foldl (fun w i => (w.homeNews (oldPa / 128 + i)).foldl
      (fun w x => w.sendNews (oldPa / 128 + i) (newPa / 128 + i) x) w) w
    let still := !recopy.any fun l => w.onCopying l || w.onCopying (l - oldPa / 128 + newPa / 128)
    if still && !begun && lines.all fun i => w.newsDone (oldPa / 128 + i) then
      let w := lines.foldl (fun w i => w.switchLine oldPa newPa recopy i) w
      let w := w.switchEntry entry newPl (newPa % 2 ^ 42)
      let w := if comp then (w.markRecord (oldPa / 128) false).recode (oldPa / 128) (newPa / 128) else w
      let d := w.dev.moveL2 oldPa newPa size
      let reqs := d.link.reqs.filter fun r => !(r.by_.isNone &&
        oldPa / 128 ≤ r.line && r.line < (oldPa + size) / 128 &&
        (r.kind == .reHome || r.kind == .inv || r.kind == .recall))
      let fwd : List Forward :=
        if oldPa = newPa then d.eng.forwards
        else d.eng.forwards ++ [{ old := oldPa, new := newPa, size := size }]
      let kind : OpKind := .move va entry oldPa oldPl newPa newPl size comp .forwarding []
      let d := { d with link := { d.link with reqs := reqs }, eng := { d.eng with forwards := fwd } }
      { w with dev := d.onOp o.num fun o => { o with kind := kind } }
    else w
  | _ => w

/-- COPYX_SWITCH (R286): once every line has been copied. -/
def Work.copyxSwitch (w : Work) (num : Nat) : Work :=
  match w.dev.op num with
  | some o => if o.kind.total ≤ o.done then w.switchPage o else w
  | none => w

/-- Every core has performed its accesses to the page, and no unit of the device still owes an increment of a
word on it (R201, R282, R286). -/
def Dev.quietPage (d : Dev) (num base size : Nat) : Bool :=
  (d.blocks.all fun b => b.pend.all fun e => !inPage (e.line * 128) base size) &&
    (d.eng.ops.all fun o => o.num == num || o.node.isSome || !inPage o.cw base size) &&
    (d.eng.graphs.all fun g => !inPage g.cw base size) &&
    (d.eng.owed.all fun x => !inPage x.2 base size) &&
    (d.eng.fills.all fun x => !(x.2.2.filling && inPage x.2.2.cw base size)) &&
    d.blocks.all fun b => b.queues.toList.all fun q => !(q.filling && inPage q.cw base size)

/-- The first and the last phases of a COPYX (R286): the carve check, and the shootdown with the end of
forwarding; whether it has ended. -/
def Work.moveEnds (w : Work) (o : Op) : Bool × Work :=
  match o.kind with
  | .move va entry oldPa oldPl newPa newPl size comp phase rc =>
    match phase with
    | .check =>
      if w.backed newPl (newPa % 2 ^ 42 + size - 1) then
        let k : OpKind := .move va entry oldPa oldPl newPa newPl size comp .copying rc
        (false, { w with dev := w.dev.onOp o.num fun o => { o with kind := k } })
      else
        let w := w.markMigrating entry (oldPa / 128) comp false
        (false, { w with dev := w.dev.spoilOp o.num 2 va })
    | .copying | .switching => (false, w)
    | .forwarding =>
      let u := w.dev.unc.shootdown entry
      let w := { w with dev := { w.dev with unc := u } }
      if w.dev.quietPage o.num oldPa size then (true, w) else (false, w)
  | _ => (true, w)

/-- Forwarding of the operation's page ends (R286, phase 7). -/
def Dev.endForward (d : Dev) (o : Op) : Dev :=
  match o.kind with
  | .move _ _ oldPa _ _ _ _ _ _ _ =>
    { d with eng := { d.eng with forwards := d.eng.forwards.filter (·.old != oldPa) } }
  | _ => d

/-! ## Completion -/

/-- Everything that the operation wrote is performed and acknowledged (R46). -/
def Dev.opPerformed (d : Dev) (o : Op) : Bool :=
  o.kind.total ≤ o.done && o.bad.isNone && (d.unacked (agentKey o.num)).isEmpty

/-- Lets an operation work on: its answer, its phase, its pieces; whether it may complete. -/
def Work.workOp (w : Work) (num : Nat) : Bool × Work :=
  match w.dev.op num with
  | none => (false, w)
  | some o =>
    if o.bad.isSome then (false, w)
    else match w.opAnswer o with
    | (false, w) => (false, w)
    | (true, w) =>
      let (last, w) := w.moveEnds o
      let w := w.pump num (o.kind.total - o.done + 1)
      match w.dev.op num with
      | none => (false, w)
      | some o => (last && w.dev.opPerformed o, w)

/-- ENGINE_COMPLETION (R46, R298, R370): the operation works on, and where it is done its completion word
takes +1. -/
def Work.engineCompletion (w : Work) (num : Nat) : Work :=
  let (ok, w) := w.workOp num
  match w.dev.op num with
  | none => w
  | some o =>
    if ok && o.node.isNone then
      let (put, w) := w.bump o.cw false
      if put then { w with dev := (w.dev.endForward o).dropOp num } else w
    else w

/-- ENGINE_ABANDON (R282, R298): an ABANDON record, then +1 with bit 63; what was written stays. -/
def Work.engineAbandon (w : Work) (num : Nat) : Work :=
  match w.dev.op num with
  | none => w
  | some o =>
    match o.bad, o.node with
    | some r, none =>
      if (w.dev.unacked (agentKey num)).isEmpty then
        match w.tryRec o.who.fn (abandonRec o.who o.va o.cwVa r) with
        | none => w
        | some w => ({ w with dev := w.dev.dropOp num }).owe o.who.key.lid o.cw
      else w
    | _, _ => w

/-- ENGINE_COMPLETION (R370). -/
def execEngineCompletion (op : Nat) (s : State) : Host.Outcome State Fault Refusal :=
  event s fun w => w.engineCompletion op

/-- ENGINE_ABANDON (R282). -/
def execEngineAbandon (op : Nat) (s : State) : Host.Outcome State Fault Refusal :=
  event s fun w => w.engineAbandon op

/-- COPYX_SWITCH (R286). -/
def execCopyxSwitch (op : Nat) (s : State) : Host.Outcome State Fault Refusal :=
  event s fun w => w.copyxSwitch op

/-! ## The instructions -/

/-- The pair's low register, its high register (R57, R73). -/
def Block.pair (b : Block) (c : PairNo) : SReg × SReg := (b.rs (PairNo.lo c), b.rs (PairNo.hi c))

/-- A completion word's address, checked and translated at issue (R282). -/
def completionWord (va : Word) : M Nat := do
  if va.toNat % 8 != 0 then raise .engineDesc
  gate
  let (pa, _) ← reachScalar va.toNat .atomic
  return pa

/-- Hands an operation to an engine of the core (R47, R282, R298): the fork. -/
def submit (kind : OpKind) (cw : Nat) (cwVa : Word) (scope : Nat) : M Unit := do
  let d ← getDev
  let b := d.blk
  match d.pickEngine b.place.core with
  | none => stay
  | some e => do
    drainAcked
    dropReads
    modifyDev fun (d : Dev) =>
      let o : Op :=
        { num := d.eng.nextOp, who := b.id, core := b.place.core, engine := e, kind := kind, done := 0,
          cw := cw, cwVa := cwVa, scope := scope, level := b.ps.pl, pc := b.pc, batch := none,
          onePage := false, va := 0, bad := none, crumbs := [], node := none }
      { d with eng := { d.eng with ops := d.eng.ops ++ [o], nextOp := o.num + 1 } }

/-- The operands of an engine instruction (R282): none may be poison. -/
def engineOperands (a b : Reg) (c : PairNo) : M (Word × Word × Word × Word) := do
  let k ← getBlk
  let (n, cw) := k.pair c
  let xs := [k.rs a, k.rs b, n, cw]
  if xs.any (·.poison.isSome) then raise .poisonAddr
  return (k.sv a, k.sv b, n.val, cw.val)

/-- COPY and COPYZ (R283). -/
def copyInstr (a b : Reg) (c : PairNo) (s : BitVec 3) (zero : Bool) : M Unit := do
  let (dst, src, n, cwVa) ← engineOperands a b c
  let cw ← completionWord cwVa
  if 2 ^ 40 ≤ n.toNat then raise .engineDesc
  submit (if zero then .zero dst n.toNat else .copy dst src n.toNat []) cw cwVa s.toNat

/-- COPY (R283). -/
def execCopy (a b : Reg) (c : PairNo) (sc : BitVec 3) (s : State) : Host.Outcome State Fault Refusal :=
  run s true (copyInstr a b c sc false)

/-- COPYZ (R283). -/
def execCopyz (a : Reg) (c : PairNo) (sc : BitVec 3) (s : State) : Host.Outcome State Fault Refusal :=
  run s true (copyInstr a 0 c sc true)

/-- An index-list descriptor (R285), by its 32 bytes. -/
def gatherKind (dst : Word) (bs : List Byte) (count : Nat) : Option OpKind :=
  let f := leNat ((bs.drop 16).take 1)
  let z := 2 ^ (f % 8)
  let wide := f / 8 % 2 == 1
  let base := leNat (bs.take 8)
  let list := leNat ((bs.drop 8).take 8)
  if f / 32 = 0 && (bs.drop 17).all (· == 0) && list % (if wide then 8 else 4) == 0 && base % z == 0 &&
      dst.toNat % z == 0 then
    some (.gather dst (BitVec.ofNat 64 base) (BitVec.ofNat 64 list) z wide (f / 16 % 2 == 1) count)
  else none

/-- Reads `n` bytes of one line through the scalar path (R130); none where the line is poison. -/
def readRecord (va n : Nat) : M (Option (List Byte)) := do
  let (pa, l) ← reachScalar va .read
  orderRead 0 l.strict [lineOf pa]
  let line ← readyAt pa
  modify fun w => w.scalarL2 line false .plain
  if ← lineIsBad line then
    modify (·.noteUpset line)
    return none
  else return some (← readRun pa n)

/-- Reads a record that may cross a line (R285). -/
def readRecordTwo (va n : Nat) : M (Option (List Byte)) := do
  let first := Nat.min n (128 - va % 128)
  match ← readRecord va first with
  | none => return none
  | some bs =>
    if n ≤ first then return some bs
    else match ← readRecord (va + first) (n - first) with
      | none => return none
      | some cs => return some (bs ++ cs)

/-- COPYG (R285). -/
def copyg (a b : Reg) (c : PairNo) (s : BitVec 3) : M Unit := do
  let (dst, desc, n, cwVa) ← engineOperands a b c
  let cw ← completionWord cwVa
  if 2 ^ 32 ≤ n.toNat then raise .engineDesc
  match ← readRecordTwo desc.toNat 32 with
  | none => raise .engineDesc
  | some bs =>
    match gatherKind dst bs n.toNat with
    | none => raise .engineDesc
    | some k => submit k cw cwVa s.toNat

/-- COPYG (R285). -/
def execCopyg (a b : Reg) (c : PairNo) (sc : BitVec 3) (s : State) : Host.Outcome State Fault Refusal :=
  run s true (copyg a b c sc)

/-- What COPYX refuses (R286): the page, the new placement word and the new offset. -/
def copyxBad (l : Leaf) (va : Nat) (pl : Word) (o : Nat) : Bool :=
  let p := pl.extractLsb' 0 32
  va % l.size != 0 || o % l.size != 0 || 2 ^ 42 ≤ o || pl.extractLsb' 32 32 != 0 || !placementOk p ||
    plClass p == 5 || plClass l.pl == 5 || (l.compressed && plClass p != 0) || l.migrating ||
    regionOf l.base ≥ 2

/-- COPYX (R286): PRIV before anything (R53). -/
def copyx (a b : Reg) (c : PairNo) (s : BitVec 3) : M Unit := do
  let k ← getBlk
  if k.ps.pl == .user then raise .priv
  let (va, pl, o, cwVa) ← engineOperands a b c
  let cw ← completionWord cwVa
  let w ← get
  let (f, w') := w.translate k.space va.toNat
  set w'
  match f with
  | .busy => stay
  | .fault => waitPage 0 va.toNat
  | .leaf l =>
    if copyxBad l va.toNat pl o.toNat || (w'.le l.entry 2).testBit 14 then raise .engineDesc
    let p := pl.extractLsb' 0 32
    submit (.move va l.entry l.base l.pl (hbmPa p o.toNat) p l.size l.compressed .check []) cw cwVa s.toNat
    modify fun w => w.markMigrating l.entry (l.base / 128) l.compressed true

/-- COPYX (R286). -/
def execCopyx (a b : Reg) (c : PairNo) (sc : BitVec 3) (s : State) : Host.Outcome State Fault Refusal :=
  run s true (copyx a b c sc)

end Sys2Proof.Machine
end

