-- ==== Sys2Proof/Machine/Launch.lean ====
section
/-! DEFINITION. Launch records, kernel headers, their checks, capacity, and LAUNCH (R31, R323 to R329, R346,
R348). -/
namespace Sys2Proof.Machine

/-! ## Records -/

/-- A field of a record: `n` bytes from byte `i`. -/
def field (bs : List Byte) (i n : Nat) : Nat := leNat ((bs.drop i).take n)

/-- Bytes that must be zero. -/
def zeros (bs : List Byte) (i n : Nat) : Bool := ((bs.drop i).take n).all (· == 0)

/-- The kind of a record (R324). -/
def recordKind (bs : List Byte) : Nat := field bs 0 1 % 16

/-- A launch record (R324). -/
structure LaunchRec where
  cls : Nat
  coresident : Bool
  notify : Bool
  gang : Nat
  budget : Nat
  header : Nat
  x : Nat
  y : Nat
  z : Nat
  done : Nat
  status : Nat
  deriving DecidableEq, Repr

def launchRec (bs : List Byte) : LaunchRec :=
  { cls := field bs 1 1 % 8, coresident := (field bs 1 1).testBit 3, notify := (field bs 1 1).testBit 4,
    gang := field bs 2 1, budget := field bs 4 4, header := field bs 8 8, x := field bs 16 2,
    y := field bs 18 2, z := field bs 20 2, done := field bs 24 8, status := field bs 32 8 }

/-- The fields of a kind 1 record are in range and its reserved fields are zero (R324, R326). -/
def launchRecOk (bs : List Byte) : Bool :=
  let r := launchRec bs
  bs.length == 64 && field bs 0 1 == 1 && field bs 1 1 / 32 == 0 && 1 ≤ r.gang && r.gang ≤ 64 &&
    zeros bs 3 1 && zeros bs 22 2 && zeros bs 40 24 && 1 ≤ r.x && 1 ≤ r.y && 1 ≤ r.z

/-- A kernel header as its bytes give it (R325). -/
def header (bs : List Byte) : Header :=
  { entry := BitVec.ofNat 64 (field bs 0 8), srseed := BitVec.ofNat 64 (field bs 8 8), rows := field bs 16 2,
    tsRows := field bs 18 2, scratch := field bs 20 4, share := field bs 24 1, poison := field bs 25 1 % 4,
    compat := (field bs 25 1).testBit 2 }

/-- The legal shares (R17, R325). -/
def legalShare (n : Nat) : Bool := n == 4 || n == 8 || n == 16 || n == 32 || n == 128

/-- The header keeps R325, its row count aside. -/
def headerOk (bs : List Byte) : Bool :=
  let h := header bs
  h.entry.extractLsb' 0 2 == 0 && h.tsRows ≤ 1024 && h.scratch ≤ 786432 && legalShare h.share &&
    h.poison ≤ 2 && field bs 25 1 / 8 == 0 && zeros bs 26 38

/-! ## Capacity -/

/-- The rows rounded up to 8 (R143). -/
def Header.grant (h : Header) : Nat := (h.rows + 7) / 8 * 8

/-- The storage width of a share (R142). -/
def shareWidth (share : Nat) : Nat := if share = 128 then 16384 else 4096

/-- The scratch rows (R327). -/
def scratchRows (bytes width : Nat) : Nat := (8 * bytes + width - 1) / width

/-- The physical rows that a block of the header takes in each partition it holds (R230). -/
def Header.physRows (h : Header) : Nat := h.grant + scratchRows h.scratch (shareWidth h.share)

/-- Lane group `g` is fenced (R215). -/
def Core.groupFenced (c : Core) (g : Nat) : Bool := c.fenced.getLsbD g

/-- The lanes `lo` to `lo + n - 1` of a core hold no fenced lane group of 8 lanes (R331). -/
def Core.lanesGood (c : Core) (lo n : Nat) : Bool :=
  (List.range 16).all fun g => !(c.groupFenced g && lo < 8 * g + 8 && 8 * g < lo + n)

/-- Starts aligned to a share in a partition that hold no fenced lane (R35, R327). -/
def Core.starts (c : Core) (part share : Nat) : List Nat :=
  ((List.range (32 / share)).map fun i => 32 * part + share * i).filter fun lo => c.lanesGood lo share

/-- k_p of a partition (R327). -/
def Core.kPart (c : Core) (h : Header) (part : Nat) : Nat :=
  let k := Nat.min 8 (c.starts part h.share).length
  if h.physRows = 0 then k else Nat.min k (1536 / h.physRows)

/-- k_core (R327). -/
def Core.capacity (c : Core) (h : Header) : Nat :=
  if !c.live then 0
  else if h.share = 128 then (if c.fenced = 0 then 1 else 0)
  else
    let k := ((List.range 4).map (c.kPart h)).sum
    if h.tsRows = 0 then k else Nat.min k (1024 / h.tsRows)

/-- k_cl of a cluster of 8 cores (R13, R327). -/
def Dev.clusterCapacity (d : Dev) (h : Header) (cl : Nat) : Nat :=
  ((List.range 8).map fun i => (d.core (8 * cl + i)).capacity h).sum

/-- Clusters of the device (R24). -/
def clusters : Nat := Config.cores / 8

/-- The gang fits some cluster (R328). -/
def Dev.gangFits (d : Dev) (h : Header) (g : Nat) : Bool :=
  (List.range clusters).any fun cl => g ≤ d.clusterCapacity h cl

/-- The co-residency check (R328). -/
def Dev.coresidentFits (d : Dev) (h : Header) (g gangs : Nat) : Bool :=
  gangs ≤ ((List.range clusters).map fun cl => d.clusterCapacity h cl / g).sum

/-! ## Contexts -/

/-- A context descriptor (R348). -/
structure Context where
  root : Nat
  asid : Nat
  level : Level
  fn : Nat
  logbase : Word
  caphead : Word
  deriving DecidableEq, Repr

/-- The descriptor of a context, where it is valid and no reserved bit is set (R348). -/
def Work.context (w : Work) (ctx : Nat) : Option Context :=
  let bs := w.bytes (w.dev.fw.ctxTable + 64 * ctx) 64
  let root := field bs 0 8
  if ctx < 4096 && field bs 12 1 == 1 && field bs 10 1 ≤ 2 && field bs 11 1 ≤ 64 && zeros bs 13 3 &&
      zeros bs 32 32 && root % 8192 == 0 && regionOf root < 2 then
    some { root := root, asid := field bs 8 2, level := Level.ofCode (field bs 10 1), fn := field bs 11 1,
           logbase := BitVec.ofNat 64 (field bs 16 8), caphead := BitVec.ofNat 64 (field bs 24 8) }
  else none

/-- The CTXID value of a context (R206). -/
def Work.ctxidOf (w : Work) (ctx : Nat) : Nat := ctx % 4096 + 65536 * ((w.context ctx).map (·.asid)).getD 0

/-! ## Acceptance -/

/-- The reject codes of a kind 1 record in the order of R326, given the header's bytes if they could be
read. -/
def Work.rejectCode (w : Work) (bs : List Byte) (hdr : Option (List Byte)) (ctx : Nat) : Option Nat :=
  let r := launchRec bs
  if !launchRecOk bs || (w.context ctx).isNone then some 1
  else match hdr with
    | none => some 6
    | some hb =>
      let h := header hb
      if !headerOk hb || r.header % 64 != 0 then some 2
      else if 1536 < h.rows || 1536 < h.physRows || !w.dev.gangFits h r.gang then some 4
      else if r.x * r.y * r.z % r.gang != 0 then some 3
      else if r.coresident && !w.dev.coresidentFits h r.gang (r.x * r.y * r.z / r.gang) then some 5
      else none

/-- The LAUNCHID that an accepted launch takes (R326). -/
def nextLid (used : List Nat) (fuel n : Nat) : Nat :=
  match fuel with
  | 0 => n
  | f + 1 => if used.contains (n % 65536) then nextLid used f (n + 1) else n

/-- ENERGYLEFT at acceptance and at a reload (R374): microjoules, or all ones without a budget. -/
def energyLeft (budget : Nat) : Word :=
  if budget = 0 then BitVec.allOnes 64 else BitVec.ofNat 64 (budget * 1000)

/-- Accepts a launch (R326): its LAUNCHID. -/
def Dev.accept (d : Dev) (r : LaunchRec) (h : Header) (ctx fn cls : Nat) (done : Option Nat)
    (node : Option (Nat × Nat)) : Nat × Dev :=
  let lid := nextLid (d.lu.launches.map fun l => l.lid % 65536) (Config.launchEntries + 1) d.lu.nextLid
  let l : Launch :=
    { lid := lid, ctx := ctx, fn := fn, cls := cls, budget := r.budget, eleft := energyLeft r.budget,
      eused := 0, hdr := h, gangSize := r.gang, dimX := r.x, dimY := r.y, dimZ := r.z,
      coresident := r.coresident, notify := r.notify, done := done, since := d.clock, nextGang := 0, skipped := [],
      saved := [], retired := 0, killed := false, waited := false, node := node }
  (lid, { d with lu := { d.lu with launches := d.lu.launches ++ [l], nextLid := lid + 1 } })

/-- The status of a rejected record (R326). -/
def rejected (code : Nat) : Nat := 2 ^ 63 + code

/-- The launch table is full (R321). -/
def Dev.tableFull (d : Dev) : Bool := Config.launchEntries ≤ d.lu.launches.length

/-! ## LAUNCH -/

/-- What a launch record names in the issuing context, translated at issue (R324, R329). -/
structure NamedWords where
  hdr : Option (List Byte)
  done : Option Nat
  status : Option Nat
  deriving DecidableEq, Repr

/-- A word's address translated, where one is named. -/
def namedWord (va : Nat) (a : Access) : M (Option Nat) := do
  match wordNamed va with
  | none => return none
  | some va => return some (← reachScalar va a).1

/-- Translates and reads what a kind 1 record names. -/
def namedWords (bs : List Byte) : M NamedWords := do
  if recordKind bs != 1 then return { hdr := none, done := none, status := none }
  else do
    let r := launchRec bs
    let hdr ← readRecordTwo r.header 64
    let done ← namedWord r.done .atomic
    let status ← namedWord r.status .write
    return { hdr := hdr, done := done, status := status }

/-- Writes a status word at its home (R326). -/
def Work.writeStatus (w : Work) (pa : Option Nat) (v : Nat) : Work :=
  match pa with
  | none => w
  | some pa =>
    let bs := cellsFrom (w.redirect pa) (natLe 8 v)
    w.performBytes (lineOf (w.redirect pa)) bs false 16

/-- The homes of the words that a launch writes can take them (R245). -/
def claimNamed (pa : Option Nat) : M Unit :=
  match pa with
  | none => pure ()
  | some pa => do
    let pa := (← get).redirect pa
    if regionOf pa = 3 then pure () else claimLine (lineOf pa) true

/-- LAUNCH (R329): its commit is a fork, behind every older write (R298). -/
def launch (d a : Reg) : M Unit := do
  let k ← getBlk
  let x := k.rs a
  if x.poison.isSome then raise .poisonAddr
  if x.val.toNat % 64 != 0 then raise .addrAlign
  gate
  let rec_ ← readRecord x.val.toNat 64
  let n ← namedWords (rec_.getD [])
  if (← getDev).tableFull then stay
  else do
    drainAcked
    dropReads
    claimNamed n.status
    let w ← get
    let status ← match rec_ with
      | none => pure (rejected 6)
      | some bs =>
        if recordKind bs = 1 && n.hdr.isNone then pure (rejected 6)
        else match w.rejectCode bs n.hdr k.id.ctx with
        | some c => pure (rejected c)
        | none => do
          let r := launchRec bs
          let old := ((w.dev.launch k.id.key.lid).map (·.cls)).getD 0
          let (lid, dev) := w.dev.accept r (header (n.hdr.getD [])) k.id.ctx k.id.fn (Nat.max r.cls old) n.done
            none
          set { w with dev := dev }
          pure lid
    modify fun w => w.writeStatus n.status status
    modifyBlk fun k => k.ws d (SReg.plain (BitVec.ofNat 64 status))

/-- LAUNCH (R329). -/
def execLaunch (d a : Reg) (s : State) : Host.Outcome State Fault Refusal :=
  run s true (launch d a)

/-! ## Host launch queues -/

/-- QUEUE_ERROR (R344). -/
def queueError (entry cause : Nat) : Rec := deviceRec .queueError (natLe 1 entry ++ natLe 1 cause)

/-- The descriptor has a reserved field that is not zero, or n outside 4 to 16 (R322). -/
def Work.badDesc (w : Work) (e : Nat) : Bool := !descOk e (w.bytes (w.dev.fw.queueTable + 64 * e) 64)

/-- Somebody has written the descriptor: an entry of zeros alone shows no write; log entry 69. -/
def Work.descWritten (w : Work) (e : Nat) : Bool := (w.bytes (w.dev.fw.queueTable + 64 * e) 64).any (· != 0)

/-- A launch queue of the launch unit. -/
def Dev.launchQueue (d : Dev) (q : Nat) : LaunchQueue :=
  d.lu.queues.toList.getD q { stopped := false, reported := false, seen := 0 }

def Dev.onQueue (d : Dev) (q : Nat) (f : LaunchQueue → LaunchQueue) : Dev :=
  let qs := Vector.ofFn fun i => if i.val = q then f d.lu.queues[i] else d.lu.queues[i]
  { d with lu := { d.lu with queues := qs } }

/-- The next record of a launch queue (R323): its descriptor and bytes, none where the queue is stopped,
disabled, empty, or waits for a reject record's slot (R345). -/
def Work.nextRecord (w : Work) (q : Nat) : Option (QueueDesc × Nat × List Byte) :=
  match w.queueDesc q with
  | none => none
  | some d =>
    let x := w.dev.launchQueue q
    let cons := w.ownLe (d.control + 0x80) 8
    let waits := w.dev.fq.held.any fun h => h.toRec.kind == .launchReject && field h.toRec.rest 16 1 == q
    if q < 16 && !x.stopped && cons < x.seen && !waits then
      some (d, cons, w.bytes (d.control + 0x200 + cons % d.slots * 64) 64)
    else none

/-- With no record at any queue the next ones are served from queue 0 on (R323, R347). -/
def Work.newRound (w : Work) : Work :=
  if (List.range 16).any fun q => (w.nextRecord q).isSome then w
  else { w with dev := { w.dev with lu := { w.dev.lu with turn := 15 } } }

/-- PRODUCER_COUNT_WRITE (R323): the unit re-reads the count; an overrun stops the queue. -/
def Work.readCount (w : Work) (q : Nat) : Work :=
  match w.queueDesc q with
  | none => w
  | some d =>
    let prod := w.le d.control 8
    let cons := w.ownLe (d.control + 0x80) 8
    let bad := prod < cons || cons + d.slots < prod
    let first := bad && !(w.dev.launchQueue q).stopped
    let w := w.newRound
    let w := { w with dev := w.dev.onQueue q fun x => { x with seen := prod, stopped := x.stopped || bad } }
    if first then w.sendRec 0 (queueError q 1) else w

/-- QUEUE_DESCRIPTOR_WRITE (R322, R323): a bad descriptor is reported once; a write resumes a stopped
queue. -/
def Work.readDesc (w : Work) (e : Nat) : Work :=
  let bad := w.badDesc e
  let w := if bad then w.sendRec 0 (queueError e 2) else w
  let w := { w with dev := w.dev.onQueue e fun x => { x with stopped := false, reported := bad } }
  if e < 16 then w.readCount e else w.flush

/-- PRODUCER_COUNT_WRITE (R323). -/
def execProducerCountWrite (q : Nat) (s : State) : Host.Outcome State Fault Refusal :=
  event s fun w => if q < 16 then w.readCount q else w

/-- QUEUE_DESCRIPTOR_WRITE (R322). -/
def execQueueDescriptorWrite (e : Nat) (s : State) : Host.Outcome State Fault Refusal :=
  event s fun w => if e < 81 then w.readDesc e else w

/-- The unit raises the consumer count (R323); the turn goes to the next queue. -/
def Work.consume (w : Work) (q : Nat) (d : QueueDesc) (cons : Nat) : Work :=
  let w := { w with dev := { w.dev with lu := { w.dev.lu with turn := q } } }
  w.ownWrite (d.control + 0x80) (natLe 8 (cons + 1))

/-- A rejected record of a host launch queue (R326, R344). -/
def Work.reject (w : Work) (d : QueueDesc) (q cons code : Nat) (status : Option Nat) : Work :=
  let r : Rec := deviceRec .launchReject (natLe 8 code ++ natLe 8 cons ++ natLe 1 q)
  let r := { r with ctxid := w.ctxidOf d.ctx }
  let w := w.writeStatus status (rejected code)
  w.sendRec (((w.context d.ctx).map (·.fn)).getD d.fn) r

/-- A physical range that the device's memory backs (R326, R352). -/
def Work.backedPa (w : Work) (pa len : Nat) : Bool :=
  match regionOf pa with
  | 0 => pa / 2 ^ 49 == 0 && pa / 2 ^ 42 % 64 < 45 && w.backed (plOfPa pa) (pa % 2 ^ 42 + len - 1)
  | 1 => regionBitsOk pa && w.dev.fw.covers (pa % 2 ^ 60) len
  | 2 => regionBitsOk pa
  | _ => false

/-- The header that a host queue's record names by physical address; none where it cannot be read (R324,
R326). -/
def Work.hostHeader (w : Work) (pa : Nat) : Option (List Byte) :=
  if w.backedPa pa 64 && (w.badLine (lineOf pa)).isNone && (w.badLine (lineOf (pa + 63))).isNone then
    some (w.bytes pa 64)
  else none

/-- The home of a word that a record names can take a write (R245). -/
def Work.claimNamedWord (w : Work) (pa : Option Nat) : Bool × Work :=
  match pa with
  | none => (true, w)
  | some pa => w.claimWord pa

/-- The reject code of a record of a host queue: a context serves only the function that owns it, as R381 says; log
entry 99. -/
def Work.hostReject (w : Work) (d : QueueDesc) (bs : List Byte) (hdr : Option (List Byte)) : Option Nat :=
  if ((w.context d.ctx).map fun c => c.fn != d.fn).getD false then some 1 else w.rejectCode bs hdr d.ctx

/-- Reads a record of kind 1, or of no kind, at a turn of its queue (R323, R326): checked, and accepted or rejected. -/
def Work.readLaunch (w : Work) (q : Nat) (d : QueueDesc) (cons : Nat) (bs : List Byte) : Work :=
  let r := launchRec bs
  let slot := d.control + 0x200 + cons % d.slots * 64
  let hdr := if (w.badLine (lineOf slot)).isSome then none else w.hostHeader r.header
  let status := if recordKind bs = 1 then wordNamed r.status else none
  let (ok, w) := w.claimNamedWord status
  if !ok then w
  else
    let w := w.consume q d cons
    match w.hostReject d bs hdr with
    | some c => w.reject d q cons c status
    | none =>
      let fn := ((w.context d.ctx).map (·.fn)).getD d.fn
      let (lid, dev) := w.dev.accept r (header (hdr.getD [])) d.ctx fn r.cls (wordNamed r.done) none
      ({ w with dev := dev }).writeStatus status lid

/-- LAUNCH_RECORD (R323, R326): a kind 1 record, or one of no kind; while the table is full the former waits. -/
def Work.launchRecord (w : Work) (q : Nat) : Work :=
  match w.nextRecord q with
  | none => w
  | some (d, cons, bs) =>
    let k := recordKind bs
    if (2 ≤ k && k ≤ 4) || (k = 1 && w.dev.tableFull) then w else w.readLaunch q d cons bs

/-- LAUNCH_RECORD (R326). -/
def execLaunchRecord (q : Nat) (s : State) : Host.Outcome State Fault Refusal :=
  event s fun w => w.launchRecord q

end Sys2Proof.Machine
end

