-- ==== Sys2Proof/Machine/TileMem.lean ====
section
/-! DEFINITION. What tile loads and tile stores share: MFMT, the stored rows, the pages and lines of an
element, the reissue, the completion under m7 and the restart from ESTART (R182 to R185, R195 to R197, R225,
R270, R273, R276). -/
namespace Sys2Proof.Machine

/-! ## MFMT and stored rows -/

/-- What a load or store takes from MFMT (R182): the effective encoding, TRAIL, rounding, saturation. -/
structure Mfmt where
  enc : Tag
  trail : Bool
  rm : Round
  sat : Bool
  deriving DecidableEq, Repr

/-- Reads MFMT for a tile of tag `t` (R182, R183); `wide` asks for an encoding that is not narrow and is 8
bits or wider (R187, R188, R190). -/
def mfmt (t : Tag) (wide : Bool) : M Mfmt := do
  let v := (← getBlk).csr.mfmt
  let enc := (v.extractLsb' 0 5).toNat
  let scl := (v.extractLsb' 5 2).toNat
  let rm := (v.extractLsb' 7 3).toNat
  if 17 < enc || 1 < scl || 4 < rm then raise .typeState
  let e := if enc = 0 then t else Tag.ofCode enc
  if wide && (e.narrow || e.width < 8) then raise .typeState
  return { enc := e, trail := scl == 1, rm := Round.ofCode rm, sat := v.getLsbD 10 }

/-- r_b: the bytes of a stored row (R184). -/
def Tag.rowBytes (t : Tag) (cols : Nat) : Nat :=
  if t.narrow then blocksOf cols * (1 + 4 * t.width) else ceilDiv (cols * t.width) 8

/-- The access unit a (R185). -/
def Tag.unit (t : Tag) : Nat := if t.narrow || t.width < 8 then 1 else t.width / 8

/-- Where one element lies in memory: its bytes, the bit of them where it begins, its scale's byte, and every
stored byte that belongs with it: a narrow element's whole block (R184, R196). -/
structure Source where
  va : Nat
  bytes : Nat
  shift : Nat
  scale : Option Nat
  ranges : List (Nat × Nat)
  deriving DecidableEq, Repr

/-- wrap64 (R5). -/
def wrap64 (n : Nat) : Nat := n % 2 ^ 64

/-- Element `j` of a stored row of `cols` columns at `row` (R87, R184). -/
def Mfmt.source (f : Mfmt) (row cols j : Nat) : Source :=
  let w := f.enc.width
  if f.enc.narrow then
    let b := j / 32
    let bit := w * (j % 32)
    let at_ := wrap64 (row + (if f.trail then b * (4 * w) else b * (1 + 4 * w) + 1))
    let sc := wrap64 (row + (if f.trail then blocksOf cols * (4 * w) + b else b * (1 + 4 * w)))
    { va := wrap64 (at_ + bit / 8), bytes := (bit % 8 + w + 7) / 8, shift := bit % 8, scale := some sc,
      ranges := if f.trail then [(at_, 4 * w), (sc, 1)] else [(sc, 1 + 4 * w)] }
  else
    let bit := w * j
    let at_ := wrap64 (row + bit / 8)
    { va := at_, bytes := (w + 7) / 8, shift := bit % 8, scale := none, ranges := [(at_, (w + 7) / 8)] }

/-- Where an element of the destination comes from: nowhere, a fill pattern, or memory. -/
inductive Src where
  | off
  | fill (p : Nat)
  | at_ (x : Source)
  deriving DecidableEq, Repr

/-- The elements of a tile whose rows are stored rows; a row that has none is a fill (R186, R187). -/
def rowSrcs (f : Mfmt) (r : ShapeRec) (sel : List Bool) (rowAt : Nat → Option Nat) : List Src :=
  (withIndex 0 sel).map fun (e, s) =>
    if s then match rowAt (e / r.ncols) with
      | some va => .at_ (f.source va r.ncols (e % r.ncols))
      | none => .fill 0
    else .off

/-- The elements that are read, with their sources. -/
def reads (srcs : List Src) : List (Nat × Source) :=
  (withIndex 0 srcs).filterMap fun (e, s) => match s with
    | .at_ x => some (e, x)
    | _ => none

/-- Every address formed is a multiple of the access unit (R185). -/
def aligned (a : Nat) (xs : List (Nat × Source)) : M Unit :=
  match xs.find? fun x => x.2.va % a != 0 with
  | some (e, _) => raiseAt .addrAlign e
  | none => pure ()

/-! ## Pages and lines -/

/-- The pages of a source's bytes (R344). -/
def Source.pages (x : Source) : List Nat :=
  x.ranges.flatMap fun (va, n) =>
    let a := pageOf va
    let b := pageOf (wrap64 (va + n - 1))
    if a = b then [a] else [a, b]

/-- The pages that translation has been asked for, with what it gave. -/
abbrev PageMap := List (Nat × Reach)

/-- Translates pages not yet in the map, by a part of the core's unit. -/
def reachPages (u : TlbUnit) (a : Access) (m : PageMap) (ps : List Nat) : M PageMap :=
  match ps with
  | [] => pure m
  | p :: r => do
    if m.any (·.1 == p) then reachPages u a m r
    else do
      let x ← reach u p a
      reachPages u a ((p, x) :: m) r

def PageMap.at (m : PageMap) (va : Nat) : Reach := (journalAt m (pageOf va)).getD .fault

/-- The physical address of a resident byte. -/
def PageMap.pa (m : PageMap) (va : Nat) : Nat :=
  match m.at va with
  | .ok _ l => l.pa va
  | _ => 0

/-- The pages of a source that do not translate. -/
def PageMap.faults (m : PageMap) (x : Source) : List Nat :=
  x.pages.filter fun p => m.at p == .fault

/-- A page of the source is resident and forbids the access. -/
def PageMap.breach (m : PageMap) (x : Source) : Bool := x.pages.any fun p => m.at p == .breach

/-- Translates the pages of the elements, in element order. -/
def reachAll (u : TlbUnit) (a : Access) (xs : List (Nat × Source)) : M PageMap :=
  reachPages u a [] (xs.flatMap (·.2.pages))

/-- A breach traps at the lowest of the elements that are performed (R181, R196, R275). -/
def noBreach (m : PageMap) (xs : List (Nat × Source)) : M Unit :=
  match xs.find? fun x => m.breach x.2 with
  | some (e, _) => raiseAt .access e
  | none => pure ()

/-- The lines of a source's bytes, where their home now is (R286). -/
def PageMap.lines (m : PageMap) (w : Work) (x : Source) : List Nat :=
  (x.ranges.flatMap fun (va, n) =>
    [lineOf (w.redirect (m.pa va)), lineOf (w.redirect (m.pa (wrap64 (va + n - 1))))]).eraseDups

/-- An element's own bytes, its scale's among them (R195). -/
def Source.own (x : Source) : List (Nat × Nat) :=
  (x.va, x.bytes) :: match x.scale with
    | some s => [(s, 1)]
    | none => []

/-- An element that takes only its own bytes. -/
def Source.ownOnly (x : Source) : Source := { x with ranges := x.own }

/-- The distinct lines of the elements, in the order of the lowest element (R195). -/
def PageMap.allLines (m : PageMap) (w : Work) (xs : List (Nat × Source)) : List Nat :=
  (xs.flatMap fun x => m.lines w x.2).eraseDups

/-- Some page of the elements is DEVICE or STRONG (R200, R267). -/
def PageMap.strict (m : PageMap) : Bool :=
  m.any fun p => match p.2 with
    | .ok _ l => l.strict
    | _ => false

/-- How the pages order the instruction's writes (R267, R271). -/
def PageMap.order (m : PageMap) : PageOrder :=
  if m.strict then .strict
  else if m.any fun p => match p.2 with
    | .ok _ l => l.hostShared
    | _ => false then .inOrder
  else .queued

/-- The lane group, counted in the core, of the segment that holds column `j` of a version (R150, R267). -/
def Tag.sliceOf (t : Tag) (p : Place) (j : Nat) : Nat :=
  let off := if t.isFp6 then j % (4 * (p.width / 24)) / 4 * 3
             else j % (p.width / t.width) * t.width / 8
  (if p.wide then 0 else 4 * p.part) + off / 128

/-- Where a byte of a block's scratch lies (R229): its storage row, its lane group counted in the core, its bank. -/
structure ScratchAt where
  row : Nat
  group : Nat
  bank : Nat
  deriving DecidableEq, Repr

/-- The place of scratch offset `x` (R229). -/
def Place.scratchAt (p : Place) (x : Nat) : ScratchAt :=
  let row := x / (p.width / 8)
  let k := x % (p.width / 8) / 16
  { row := row, group := (if p.width = 16384 then 0 else 4 * p.part) + k / 8, bank := (row + k) % 8 }

/-- The lowest use of each line so far, by address, with the lane group that it goes to. -/
def lowestUse (us : List (Nat × Nat)) (u : Nat × Nat) : List (Nat × Nat) :=
  match us with
  | [] => [u]
  | x :: r => if lineOf x.1 = lineOf u.1 then (if u.1 < x.1 then u else x) :: r else x :: lowestUse r u

/-- The lines that elements use, each with the lane group that its lowest used byte goes to or comes from (R234). -/
def PageMap.demand (m : PageMap) (w : Work) (slice : Nat → Nat) (xs : List (Nat × Source)) : List (Nat × Nat) :=
  let uses := xs.flatMap fun x => x.2.ranges.flatMap fun (va, n) =>
    let a := w.redirect (m.pa va)
    let z := w.redirect (m.pa (wrap64 (va + n - 1)))
    (a, slice x.1) :: (if lineOf a = lineOf z then [] else [(lineOf z * 128, slice x.1)])
  (uses.foldl lowestUse []).map fun u => (lineOf u.1, u.2)

/-! ## The reissue and the restart -/

/-- How the instruction issues: as a reissue, in one-page mode, and from which element (R197, R225). -/
structure Issue where
  again : Bool
  one : Bool
  from_ : Nat
  deriving DecidableEq, Repr

/-- Waits for an answer where the block waits for one (R197, R225). -/
def issue : M Issue := do
  let b ← getBlk
  let a ← gateTile
  return { again := b.reissuing, one := b.reissuing && a == some .onePage,
           from_ := if b.ps.compat then b.csr.estart.toNat else 0 }

/-- The mask field as the instruction reads it (R197). -/
def Issue.mask (i : Issue) (m : MaskField) : MaskField := if i.again then 7 else m

/-- The rows that a load or store reserves for m7 at issue (R143). -/
def Block.m7Rows (b : Block) (r : ShapeRec) : Nat :=
  if b.ps.compat then 0 else ceilDiv r.size b.place.width

/-- What cannot be done now: the elements of F and the pages of the batch (R196, R197, R276). -/
structure Faulted where
  first : Nat
  elems : List Nat
  pages : List Nat
  deriving DecidableEq, Repr

/-- F of the elements: in one-page mode everything from the first faulted element on, with its page alone
(R196, R197). -/
def faulted (m : PageMap) (one : Bool) (xs : List (Nat × Source)) : Option Faulted :=
  match xs.filter fun x => m.faults x.2 != [] with
  | [] => none
  | (e, x) :: r =>
    if one then
      some { first := e, elems := (xs.filter fun y => e ≤ y.1).map (·.1),
             pages := (m.faults x).take 1 }
    else
      some { first := e, elems := ((e, x) :: r).map (·.1),
             pages := (((e, x) :: r).flatMap fun y => m.faults y.2).eraseDups.take 32 }

/-- The elements that are performed now: all but F, and under COMPAT those below the first faulted one
(R196, R225). -/
def performable (compat : Bool) (f : Option Faulted) (xs : List (Nat × Source)) :
    List (Nat × Source) :=
  match f with
  | none => xs
  | some f =>
    if compat then xs.filter fun x => x.1 < f.first
    else
      xs.filter fun x => !f.elems.contains x.1

/-- The end of a reissue of which everything was performed (R197). -/
def endAgain (i : Issue) (r : ShapeRec) : M Unit := do
  modify Work.clearBatch
  if i.again then modify Work.clearParked
  modifyBlk fun b =>
    if i.again then
      { b.wm 7 { n := r.size, fill := false, bits := 0, poison := none } with
        ps := { b.ps with reissue := false }, again := none }
    else b

/-- The end of a load or store of which everything was performed (R197): under COMPAT it clears ESTART too (R225). -/
def endWhole (i : Issue) (r : ShapeRec) : M Unit := do
  endAgain i r
  modifyBlk fun b => if b.ps.compat then { b with csr := { b.csr with estart := 0 } } else b

/-- The batch of F, which a full queue does not take (R201, R345). -/
def Work.faultBatch (w : Work) (f : Faulted) (one : Bool) (flt : Word) : Option (BlockBatch × Work) :=
  w.openBatch false f.pages one f.first flt (BitVec.ofNat 64 (f.pages.headD 0))

/-- Waits at the fault point, before anything is performed, until the fault queue takes the batch (R201). -/
def needBatch (f : Option Faulted) : M Unit := do
  match f with
  | none => pure ()
  | some f => if ((← get).faultBatch f false 0).isNone then stay

/-- Sends the batch of F, for which the reissue waits (R197). -/
def sendPages (f : Faulted) (one : Bool) (flt : Word) : M Unit := do
  match (← get).faultBatch f one flt with
  | none => stay
  | some (bb, w) =>
    set w.clearParked
    modifyBlk fun b => { b with parked := some bb, again := some b.pc }

/-- The end of one of which part was not: under COMPAT the block waits with ESTART set (R225), else the
instruction commits under m7 with the reissue flag set (R196, R276). -/
def endPart (i : Issue) (d : TileNo) (r : ShapeRec) (f : Faulted) : M Unit := do
  let flt := fltInfo d (f.first / r.ncols) (f.first % r.ncols) false
  if (← getBlk).ps.compat then do
    modifyBlk fun b => { b with csr := { b.csr with estart := BitVec.ofNat 64 f.first } }
    modify fun w => w.blockBatch false (f.pages.take 1) true f.first flt
      (BitVec.ofNat 64 (f.pages.headD 0))
    stay
  else do
    sendPages f i.one flt
    modifyBlk fun b =>
      { b.wm 7 { n := r.size, fill := false, bits := f.elems.foldl (fun a e => a ||| 2 ^ e) 0,
                 poison := none } with
        csr := { b.csr with fltinfo := flt }, ps := { b.ps with reissue := true } }
    stopWith .partial_

/-- What follows the elements that were performed. -/
def finish (i : Issue) (d : TileNo) (r : ShapeRec) (f : Option Faulted) : M Unit :=
  match f with
  | none => endWhole i r
  | some f => endPart i d r f

end Sys2Proof.Machine
end

