-- ==== Sys2Proof/Machine/Elementary.lean ====
section
/-! DEFINITION. The functions of R94: exponential, natural logarithm and hyperbolic tangent, to far more
bits than any format holds, with a sticky mark, so that one rounding follows (R94, R154); log entry 10. -/
namespace Sys2Proof.Machine

/-- Fractional bits of the fixed-point work. -/
def fixBits : Nat := 640

/-- ln 2 × 2^640, rounded down. -/
def ln2Fix : Nat :=
  0xB17217F7D1CF79ABC9E3B39803F2F6AF40F343267298B62D8A0D175B8BAAFA2BE7B876206DEBAC98559552FB4AFA1B10ED2EAE35C138214427573B291169B8253E96CA16224AE8C51ACBDA11317C387E

/-- Sum of the terms of e^r from term `t` = r^(n−1)/(n−1)! on. -/
def expSeries (r fuel n t : Nat) : Nat :=
  match fuel with
  | 0 => t
  | f + 1 => if t = 0 then 0 else t + expSeries r f (n + 1) (t * r / 2 ^ fixBits / n)

/-- e^x of a fixed-point x: a mantissa in [1, 2) × 2^640 and the exponent of 2. -/
def expFix (x : Int) : Nat × Int :=
  let k := x / ln2Fix
  let r := (x - k * ln2Fix).toNat
  (expSeries r 220 1 (2 ^ fixBits), k)

/-- The fixed-point value of m × 2^e. -/
def toFix (neg : Bool) (m : Nat) (e : Int) : Int :=
  let s := e + fixBits
  let v : Int := if 0 ≤ s then m * 2 ^ s.toNat else m / 2 ^ (-s).toNat
  if neg then -v else v

/-- A value just above or just below 1. -/
def nearOne (above : Bool) : Num :=
  if above then .fin false (2 ^ 250) (-250) true else .fin false (2 ^ 250 - 1) (-250) true

/-- e^x (R154). -/
def Num.exp (x : Num) : Num :=
  match x with
  | .nan => .nan
  | .inf neg => if neg then .zero false else .inf false
  | .fin neg m e _ =>
    if m = 0 then .fin false 1 0 false
    else
      let top := e + bitLen_ m
      if 13 < top then .fin false 1 (if neg then -4000 else 4000) true
      else if top < -240 then nearOne (!neg)
      else
        let (s, k) := expFix (toFix neg m e)
        .fin false s (k - fixBits) true

/-- Sum of the series z + z³/3 + … of atanh, from the term with power `t` and divisor `d`. -/
def atanhSeries (zz : Nat) (fuel d t : Nat) : Nat :=
  match fuel with
  | 0 => 0
  | f + 1 => if t = 0 then 0 else t / d + atanhSeries zz f (d + 2) (t * zz / 2 ^ fixBits)

/-- ln of m × 2^e in fixed point, m not zero. -/
def lnFix (m : Nat) (e : Int) : Int :=
  let l := bitLen_ m
  let s := if 3 * m > 4 * 2 ^ (l - 1) then l else l - 1
  let k := e + s
  let d : Int := (m : Int) - 2 ^ s
  let z := d.natAbs * 2 ^ fixBits / (m + 2 ^ s)
  let a : Int := 2 * atanhSeries (z * z / 2 ^ fixBits) 200 1 z
  (if d < 0 then -a else a) + k * ln2Fix

/-- ln x (R154): −∞ of a zero, NaN of a negative value, +0 of 1. -/
def Num.ln (x : Num) : Num :=
  match x with
  | .nan => .nan
  | .inf neg => if neg then .nan else .inf false
  | .fin neg m e _ =>
    if m = 0 then .inf true
    else if neg then .nan
    else
      let v := lnFix m e
      if v = 0 then .zero false else .fin (v < 0) v.natAbs (-fixBits) true

/-- tanh x (R154): ±0 of ±0, ±1 of the infinities. -/
def Num.tanh (x : Num) : Num :=
  match x with
  | .nan => .nan
  | .inf neg => .fin neg 1 0 false
  | .fin neg m e _ =>
    if m = 0 then .zero neg
    else
      let top := e + bitLen_ m
      if 10 < top then .fin neg (2 ^ 250 - 1) (-250) true
      else if top < -130 then .fin neg (m * 2 ^ 200 - 1) (e - 200) true
      else
        let (s, k) := expFix (2 * toFix false m e)
        let a := s * 2 ^ k.toNat
        .fin neg ((a - 2 ^ fixBits) * 2 ^ 700 / (a + 2 ^ fixBits)) (-700) true

end Sys2Proof.Machine
end

