-- ==== Sys2Proof/Machine/TileArith.lean ====
section
/-! DEFINITION. Elementwise tile instructions: majors 0x19 and 0x1A (R60, R61, R93, R94, R101, R108 to
R111, R153, R154). -/
namespace Sys2Proof.Machine

/-! ## The elementwise pipeline -/

/-- An operation on values of the promoted type P, none of them poison: the exact result (R110). -/
abbrev ElemOp := Tag → Round → List Val → Val

/-- Wraps or saturates an integer into P and rounds a number into P (R110); an integer result for a
floating destination stays exact (R60). -/
def intoP (p d : Tag) (r : Round) (sat : Bool) (v : Val) : Val :=
  match v with
  | .bad c => .bad c
  | .num x => .num (p.fmt.round r x)
  | .int n =>
    if d.isInt then .int (if sat then p.clamp n else intValue p.signed p.width (intWrap p.width n))
    else .int n

/-- pmerge over a list of values (R100, R101). -/
def mergeVals (vs : List Val) : Option Crumb := vs.foldl (fun a v => mergePoison a v.poison) none

/-- One new cell of an elementwise instruction (R101, R110). -/
def elemCell (op : ElemOp) (p d : Tag) (r : Round) (sat : Bool) (vs : List Val) : Cell :=
  match mergeVals vs with
  | some c => .new (.bad c) false r
  | none => .new (intoP p d r sat (op p r vs)) (!vs.any Val.isNan) r

/-- The columns of a list of rows of values, one list for each element. -/
def transposeVals (vss : List (List Val)) : List (List Val) :=
  match vss with
  | [] => []
  | [a] => a.map fun x => [x]
  | a :: r => List.zipWith (· :: ·) a (transposeVals r)

/-- The values of several tiles, promoted to P (R108). -/
def Block.promVals (b : Block) (ts : List (TileNo × ShapeRec)) (p : Tag) : List (List Val) :=
  transposeVals (ts.map fun (t, r) => (b.vals t r).map fun v => v.promoteTo r.tag p)

/-- The checks of an elementwise instruction (R53, R60, R61, R108, R109, R152): d's record, the sources'
records and the promoted type. DEDUCED, log entry 77: a class that R61 refuses is refused for d's tag too. -/
def elementwise (d : TileNo) (ts : List TileNo) (rm : Rm) (ok : Tag → Bool) :
    M (ShapeRec × List (TileNo × ShapeRec) × Tag) := do
  let rd ← bound d
  let rs ← ts.mapM fun t => do return (t, ← bound t)
  let tags := rs.map fun x => x.2.tag
  if !(ok rd.tag && tags.all ok) then raise .typeState
  match promote tags with
  | none => raise .typeState
  | some p =>
    if p.isFloat && rd.tag.isInt then raise .typeState
    if rd.tag.isInt && 1 < rm.toNat then raise .typeState
    freshRecs (rd :: rs.map (·.2))
    sameShapes rd (rs.map (·.2))
    return (rd, rs, p)

/-- An elementwise instruction of majors 0x19 and 0x1A (R152 to R154). -/
def elemInstr (d : TileNo) (ts : List TileNo) (m : MaskField) (rm : Rm) (ok : Tag → Bool)
    (op : ElemOp) : M Unit := do
  let (rd, rs, p) ← elementwise d ts rm ok
  let b ← getBlk
  let sat := rd.tag.isInt && rm == 1
  let r := Round.ofCode rm.toNat
  let new := (b.promVals rs p).map (elemCell op p rd.tag r sat)
  maskedWrite d rd m r sat false new

/-- The classes of R61. -/
def anyTag (_t : Tag) : Bool := true
def intTagOnly (t : Tag) : Bool := t.isInt
def wideFloat (t : Tag) : Bool := t.isFloat && !t.narrow

/-! ## The operations -/

/-- An operation of two values, on integers or on numbers. -/
def binOp (fi : Int → Int → Int) (fn : Round → Num → Num → Num) : ElemOp := fun _ r vs =>
  match vs with
  | [.int a, .int b] => .int (fi a b)
  | [a, b] => .num (fn r a.toNum b.toNum)
  | _ => .num .nan

/-- An operation of three values. -/
def triOp (fi : Int → Int → Int → Int) (fn : Round → Num → Num → Num → Num) : ElemOp := fun _ r vs =>
  match vs with
  | [.int a, .int b, .int c] => .int (fi a b c)
  | [a, b, c] => .num (fn r a.toNum b.toNum c.toNum)
  | _ => .num .nan

/-- An operation of one value. -/
def unOp (fi : Int → Int) (fn : Num → Num) : ElemOp := fun _ _ vs =>
  match vs with
  | [.int a] => .int (fi a)
  | [a] => .num (fn a.toNum)
  | _ => .num .nan

/-- An operation on the patterns of P, read unsigned (R153). -/
def bitOp (f : Nat → Nat → Nat) : ElemOp := fun p _ vs =>
  match vs with
  | [.int a, .int b] => .int (intValue p.signed p.width (f (intWrap p.width a) (intWrap p.width b)))
  | _ => .num .nan

/-- TSHL's exact result: a × 2ⁿ with n the pattern of b in P; beyond 64 places every non-zero value lies
outside P's range (R153). -/
def shlOp (sat : Bool) : ElemOp := fun p _ vs =>
  match vs with
  | [.int a, .int b] =>
    let n := intWrap p.width b
    if !sat && p.width ≤ n then .int 0 else .int (a * 2 ^ Nat.min n 64)
  | _ => .num .nan

/-- TSHR: a div 2ⁿ, rounding down (R153). -/
def shrOp : ElemOp := fun p _ vs =>
  match vs with
  | [.int a, .int b] => .int (a / 2 ^ Nat.min (intWrap p.width b) 64)
  | _ => .num .nan

/-- a × b ± c, exact (R111). -/
def fmaNum (minus : Bool) (r : Round) (a b c : Num) : Num :=
  Num.add r (a.mul b) (if minus then c.neg else c)

/-! ## Major 0x19 -/

/-- TADD (R153). -/
def execTadd (d a b : TileNo) (m : MaskField) (r : Rm) (s : State) : Host.Outcome State Fault Refusal :=
  run s true (elemInstr d [a, b] m r anyTag (binOp (· + ·) Num.add))

/-- TSUB (R153). -/
def execTsub (d a b : TileNo) (m : MaskField) (r : Rm) (s : State) : Host.Outcome State Fault Refusal :=
  run s true (elemInstr d [a, b] m r anyTag (binOp (· - ·) fun r x y => Num.add r x y.neg))

/-- TMUL (R153). -/
def execTmul (d a b : TileNo) (m : MaskField) (r : Rm) (s : State) : Host.Outcome State Fault Refusal :=
  run s true (elemInstr d [a, b] m r anyTag (binOp (· * ·) fun _ x y => x.mul y))

/-- TFMA: a × b + prior d (R111, R153). -/
def execTfma (d a b : TileNo) (m : MaskField) (r : Rm) (s : State) : Host.Outcome State Fault Refusal :=
  run s true (elemInstr d [a, b, d] m r anyTag (triOp (fun x y z => x * y + z) (fmaNum false)))

/-- TFMS: a × b − prior d (R111, R153). -/
def execTfms (d a b : TileNo) (m : MaskField) (r : Rm) (s : State) : Host.Outcome State Fault Refusal :=
  run s true (elemInstr d [a, b, d] m r anyTag (triOp (fun x y z => x * y - z) (fmaNum true)))

/-- TMIN (R93, R153). -/
def execTmin (d a b : TileNo) (m : MaskField) (r : Rm) (s : State) : Host.Outcome State Fault Refusal :=
  run s true (elemInstr d [a, b] m r anyTag (binOp min fun _ x y => x.min y))

/-- TMAX (R93, R153). -/
def execTmax (d a b : TileNo) (m : MaskField) (r : Rm) (s : State) : Host.Outcome State Fault Refusal :=
  run s true (elemInstr d [a, b] m r anyTag (binOp max fun _ x y => x.max y))

/-- TAND (R153). -/
def execTand (d a b : TileNo) (m : MaskField) (r : Rm) (s : State) : Host.Outcome State Fault Refusal :=
  run s true (elemInstr d [a, b] m r intTagOnly (bitOp fun x y => x &&& y))

/-- TOR (R153). -/
def execTor (d a b : TileNo) (m : MaskField) (r : Rm) (s : State) : Host.Outcome State Fault Refusal :=
  run s true (elemInstr d [a, b] m r intTagOnly (bitOp fun x y => x ||| y))

/-- TXOR (R153). -/
def execTxor (d a b : TileNo) (m : MaskField) (r : Rm) (s : State) : Host.Outcome State Fault Refusal :=
  run s true (elemInstr d [a, b] m r intTagOnly (bitOp fun x y => x ^^^ y))

/-- TSHL (R153). -/
def execTshl (d a b : TileNo) (m : MaskField) (r : Rm) (s : State) : Host.Outcome State Fault Refusal :=
  run s true (elemInstr d [a, b] m r intTagOnly (shlOp (r == 1)))

/-- TSHR (R153). -/
def execTshr (d a b : TileNo) (m : MaskField) (r : Rm) (s : State) : Host.Outcome State Fault Refusal :=
  run s true (elemInstr d [a, b] m r intTagOnly shrOp)

/-- The conditions of TCMP and ECMP on values that are not poison (R69, R93). -/
def compareVals (c : Nat) (x y : Val) : Bool :=
  let unordered := x.isNan || y.isNan
  let o : Int := match x, y with
    | .int a, .int b => if a < b then -1 else if b < a then 1 else 0
    | a, b => a.toNum.compare b.toNum
  match c with
  | 0 => !unordered && o == 0
  | 1 => unordered || o != 0
  | 2 => !unordered && o < 0
  | 3 => !unordered && o ≤ 0
  | 4 => !unordered && 0 < o
  | 5 => !unordered && 0 ≤ o
  | 6 => unordered
  | _ => !unordered

/-- One bit of TCMP with the poison it takes (R101). -/
def compareBit (c : Nat) (vs : List Val) : Bool × Option Crumb :=
  match vs with
  | [x, y] => match mergePoison x.poison y.poison with
    | some c => (false, some c)
    | none => (compareVals c x y, none)
  | _ => (false, none)

/-- Takes a new bit where the mask selects and the prior bit elsewhere (R153). -/
def pickBits (sel new prior : List Bool) : List Bool :=
  match sel, new, prior with
  | s :: ss, n :: ns, p :: ps => (if s then n else p) :: pickBits ss ns ps
  | _, _, _ => []

/-- TCMP (R153); where the mask holds 0, the prior bit stays, and a poisoned prior mask's poison with it (R43,
R101). -/
def tcmp (d : MaskField) (a b : TileNo) (m : MaskField) (c : Nat) : M Unit := do
  let ra ← bound a
  let rb ← bound b
  match promote [ra.tag, rb.tag] with
  | none => raise .typeState
  | some p =>
    if p.isInt && 6 ≤ c then raise .typeState
    freshRecs [ra, rb]
    sameShapes ra [rb]
    let k ← getBlk
    let n := ra.size
    let mask := k.rm_ m
    match mask.poison with
    | some c => putMask d (MaskReg.ofBits (List.replicate n false) (some c))
    | none =>
      let sel := mask.select n
      let bits := (k.promVals [(a, ra), (b, rb)] p).map (compareBit c)
      let old := if sel.all id then none else (k.rm_ d).poison
      let poison := (List.zip sel bits).foldl
        (fun x y => if y.1 then mergePoison x y.2.2 else x) old
      putMask d (MaskReg.ofBits (pickBits sel (bits.map (·.1)) ((k.rm_ d).select n)) poison)

/-- TCMP (R153). -/
def execTcmp (d : MaskField) (a b : TileNo) (m : MaskField) (c : BitVec 3) (s : State) :
    Host.Outcome State Fault Refusal :=
  run s true (tcmp d a b m c.toNat)

/-- One cell of TSEL: only the chosen operand counts (R101, R153). -/
def selCell (p d : Tag) (r : Round) (sat : Bool) (x : Bool × List Val) : Cell :=
  match x.2 with
  | [a, b] =>
    let v := if x.1 then a else b
    .new (intoP p d r sat v) (!v.isNan && v.poison.isNone) r
  | _ => .new (.num .nan) false r

/-- TSEL: the mask field is the selector, and the word is unmasked (R101, R153). -/
def tsel (d a b : TileNo) (m : MaskField) (rm : Rm) : M Unit := do
  let (rd, rs, p) ← elementwise d [a, b] rm anyTag
  let k ← getBlk
  let sat := rd.tag.isInt && rm == 1
  let r := Round.ofCode rm.toNat
  let mask := k.rm_ m
  match mask.poison with
  | some c => poisonTile d rd c
  | none =>
    writeCells d rd r sat false
      ((List.zip (mask.select rd.size) (k.promVals rs p)).map (selCell p rd.tag r sat))

/-- TSEL (R153). -/
def execTsel (d a b : TileNo) (m : MaskField) (r : Rm) (s : State) : Host.Outcome State Fault Refusal :=
  run s true (tsel d a b m r)

/-! ## Major 0x1A -/

/-- TABS (R154). -/
def execTabs (d a : TileNo) (m : MaskField) (r : Rm) (s : State) : Host.Outcome State Fault Refusal :=
  run s true (elemInstr d [a] m r anyTag (unOp (fun x => x.natAbs) Num.abs))

/-- TNEG (R154). -/
def execTneg (d a : TileNo) (m : MaskField) (r : Rm) (s : State) : Host.Outcome State Fault Refusal :=
  run s true (elemInstr d [a] m r anyTag (unOp (fun x => -x) Num.neg))

/-- TRCP (R94, R154). -/
def execTrcp (d a : TileNo) (m : MaskField) (r : Rm) (s : State) : Host.Outcome State Fault Refusal :=
  run s true (elemInstr d [a] m r wideFloat (unOp id Num.recip))

/-- TRSQ (R94, R154). -/
def execTrsq (d a : TileNo) (m : MaskField) (r : Rm) (s : State) : Host.Outcome State Fault Refusal :=
  run s true (elemInstr d [a] m r wideFloat (unOp id Num.rsqrt))

/-- TEXP (R94, R154). -/
def execTexp (d a : TileNo) (m : MaskField) (r : Rm) (s : State) : Host.Outcome State Fault Refusal :=
  run s true (elemInstr d [a] m r wideFloat (unOp id Num.exp))

/-- TLOG (R94, R154). -/
def execTlog (d a : TileNo) (m : MaskField) (r : Rm) (s : State) : Host.Outcome State Fault Refusal :=
  run s true (elemInstr d [a] m r wideFloat (unOp id Num.ln))

/-- TTANH (R94, R154). -/
def execTtanh (d a : TileNo) (m : MaskField) (r : Rm) (s : State) : Host.Outcome State Fault Refusal :=
  run s true (elemInstr d [a] m r wideFloat (unOp id Num.tanh))

end Sys2Proof.Machine
end

