-- ==== Sys2Proof/Machine/TileMove.lean ====
section
/-! DEFINITION. Conversion, quantisation and movement of tiles: majors 0x1B and 0x1C (R92, R98, R106, R107,
R155, R156). -/
namespace Sys2Proof.Machine

/-! ## Major 0x1B -/

/-- The rounding of element `e` (R60, R106, R107). -/
def roundAt (rm : Nat) (seed stream : Word) (e : Nat) : Round :=
  if rm = 5 then
    .sr (srBits seed.toNat (stream.extractLsb' 48 16).toNat
      (((stream.extractLsb' 0 48).toNat + e) % 2 ^ 48))
  else Round.ofCode rm

/-- The cells of a conversion. -/
def convertCells (rnd : Nat → Round) (vs : List Val) : List Cell :=
  (withIndex 0 vs).map fun (e, v) => .new v (!v.isNan && v.poison.isNone) (rnd e)

/-- A copied value takes part in a narrow block under the instruction's own rounding (R90, R152). -/
def Cell.reround (rnd : Nat → Round) (x : Nat × Cell) : Cell :=
  match x.2 with
  | .same _ v => .new v false (rnd x.1)
  | c => c

/-- The conversions of R155: `ok` says which tag pairs they take, `val` what a's elements count as. -/
def convert (d a : TileNo) (b : Reg) (m : MaskField) (sat : Bool) (rm : Nat) (ok : Tag → Tag → Bool)
    (oneScale : Bool) (vals : Tag → Tile → ShapeRec → List Val) : M Unit := do
  let rd ← bound d
  let ra ← bound a
  if 5 < rm || !ok rd.tag ra.tag then raise .typeState
  freshRecs [rd, ra]
  sameShapes rd [ra]
  let k ← getBlk
  if rm == 5 && (k.rs b).poison.isSome then raise .poisonAddr
  let rnd := roundAt rm k.csr.srseed (k.sv b)
  let new := convertCells rnd (vals rd.tag (k.tile a).ver ra)
  let mask := k.rm_ m
  match mask.poison with
  | some c => poisonTile d rd c
  | none =>
    let prior := k.priorCells d rd
    let prior := if rd.tag.narrow then (withIndex 0 prior).map (Cell.reround rnd) else prior
    let cs := if m = 0 then new else pickCells (mask.select rd.size) new prior
    writeCells d rd .rne sat oneScale cs

/-- What the elements of a count as for a destination of tag `t`: from a narrow tag into a narrow one they are rounded to the
promoted type (R90, R108, R110). -/
def Tile.converted (t : Tag) (v : Tile) (r : ShapeRec) : List Val :=
  if t.narrow && r.tag.narrow then (v.vals r).map fun x => x.promoteTo r.tag .fp32 else v.vals r

/-- TCVT: any pair of tags (R92, R155). -/
def execTcvt (d a : TileNo) (b : Reg) (m : MaskField) (t : BitVec 1) (r : Rm) (s : State) :
    Host.Outcome State Fault Refusal :=
  run s true (convert d a b m (t == 1) r.toNat (fun _ _ => true) false Tile.converted)

/-- TQNT: one scale for each row (R155). -/
def execTqnt (d a : TileNo) (b : Reg) (m : MaskField) (t : BitVec 1) (r : Rm) (s : State) :
    Host.Outcome State Fault Refusal :=
  run s true (convert d a b m (t == 1) r.toNat (fun d a => d.narrow && !a.narrow) true fun _ => Tile.vals)

/-- The element values as if every block scale were 127 (R155). -/
def Tile.unscaled (t : Tile) (r : ShapeRec) : List Val :=
  let sc := t.scales.toArray
  (withIndex 0 (t.elements r)).map fun (i, e) =>
    elemVal r.tag (if scaleOf sc r.ncols i = 255 then 255 else 127) e

/-- TDQ (R155). -/
def execTdq (d a : TileNo) (b : Reg) (m : MaskField) (t : BitVec 1) (r : Rm) (s : State) :
    Host.Outcome State Fault Refusal :=
  run s true (convert d a b m (t == 1) r.toNat (fun d a => a.narrow && !d.narrow) false fun _ => Tile.unscaled)

/-! ## Major 0x1C -/

/-- A version's elements as cells that move bit for bit. -/
def Tile.cells (t : Tile) (r : ShapeRec) : List Cell :=
  List.zipWith Cell.same (t.elements r) (t.vals r)

/-- A zero element of a tag. -/
def zeroCell (t : Tag) : Cell := .same (.bits 0) (elemVal t 0 (.bits 0))

/-- TMOV (R156): under m0 scales and poison move as they are. -/
def tmov (d a : TileNo) (m : MaskField) : M Unit := do
  let rd ← bound d
  let ra ← bound a
  if rd.tag != ra.tag then raise .typeState
  freshRecs [rd, ra]
  sameShapes rd [ra]
  let k ← getBlk
  let t := (k.tile a).ver
  if m = 0 then
    let n := if rd.tag.narrow then rd.rows * blocksOf rd.ncols else 0
    putTile d rd (t.elements ra) (if t.empty then List.replicate n 0 else t.scales.take n)
  else maskedWrite d rd m .rne false false (t.cells ra)

/-- TMOV (R156). -/
def execTmov (d a : TileNo) (m : MaskField) (s : State) : Host.Outcome State Fault Refusal :=
  run s true (tmov d a m)

/-- The element that TBCAST writes (R103, R156): a pattern that looks like poison is the canonical NaN. -/
def broadcastBits (t : Tag) (v : Word) : Nat :=
  let p := v.toNat % 2 ^ t.width
  if t.isFloat && !t.narrow && t.fmt.looksPoison p then t.fmt.nanPat
  else if t.narrow && (v.extractLsb' 8 8) == 255 then 0
  else p

/-- TBCAST (R156). -/
def tbcast (d : TileNo) (a : Reg) (m : MaskField) : M Unit := do
  let rd ← bound d
  freshRecs [rd]
  let k ← getBlk
  let t := rd.tag
  let sc := (k.sv a).extractLsb' 8 8
  let e : Elem := .bits (broadcastBits t (k.sv a))
  match (k.rs a).poison with
  | some c => maskedWrite d rd m .rne false false (List.replicate rd.size (.new (.bad c) false .rne))
  | none =>
    if m = 0 then
      putTile d rd (List.replicate rd.size e)
        (if t.narrow then List.replicate (rd.rows * blocksOf rd.ncols) sc.toNat else [])
    else
      maskedWrite d rd m .rne false false
        (List.replicate rd.size (.same e (elemVal t sc.toNat e)))

/-- TBCAST (R156). -/
def execTbcast (d : TileNo) (a : Reg) (m : MaskField) (s : State) :
    Host.Outcome State Fault Refusal :=
  run s true (tbcast d a m)

/-- TIOTA (R156): start and step are values. -/
def tiota (d : TileNo) (a b : Reg) (m : MaskField) : M Unit := do
  let rd ← bound d
  freshRecs [rd]
  let k ← getBlk
  let v (e : Nat) : Val := match mergePoison (k.rs a).poison (k.rs b).poison with
    | some c => .bad c
    | none => .int ((k.sv a).toInt + (k.sv b).toInt * e)
  maskedWrite d rd m .rne false false
    ((List.range rd.size).map fun e => .new (v e) true .rne)

/-- TIOTA (R156). -/
def execTiota (d : TileNo) (a b : Reg) (m : MaskField) (s : State) :
    Host.Outcome State Fault Refusal :=
  run s true (tiota d a b m)

/-- The cells of a movement: element `e` comes from the source element that `from_` names, or is zero. -/
def moveCells (t : Tag) (src : List Cell) (n : Nat) (from_ : Nat → Option Nat) : List Cell :=
  let arr := src.toArray
  (List.range n).map fun e => match from_ e with
    | some i => arr.getD i (zeroCell t)
    | none => zeroCell t

/-- TTRANS (R156). -/
def ttrans (d a : TileNo) (m : MaskField) : M Unit := do
  let rd ← bound d
  let ra ← bound a
  if rd.tag != ra.tag then raise .typeState
  freshRecs [rd, ra]
  if rd.rows != ra.ncols || rd.ncols != ra.rows then raise .shapeMismatch
  let k ← getBlk
  maskedWrite d rd m .rne false false
    (moveCells rd.tag ((k.tile a).ver.cells ra) rd.size fun e =>
      some (e % rd.ncols * ra.ncols + e / rd.ncols))

/-- TTRANS (R156). -/
def execTtrans (d a : TileNo) (m : MaskField) (s : State) : Host.Outcome State Fault Refusal :=
  run s true (ttrans d a m)

/-- The source of element `e` of TSLIDE (R156). -/
def slideFrom (cols : Nat) (k : Int) (e : Nat) : Option Nat :=
  let j : Int := (e % cols : Nat) + k
  if 0 ≤ j && j < cols then some (e / cols * cols + j.toNat) else none

/-- TSLIDE (R156). -/
def tslide (d a : TileNo) (b : Reg) (m : MaskField) : M Unit := do
  let rd ← bound d
  let ra ← bound a
  if rd.tag != ra.tag then raise .typeState
  freshRecs [rd, ra]
  sameShapes rd [ra]
  let k ← getBlk
  if (k.rs b).poison.isSome then raise .poisonAddr
  maskedWrite d rd m .rne false false
    (moveCells rd.tag ((k.tile a).ver.cells ra) rd.size (slideFrom rd.ncols (k.sv b).toInt))

/-- TSLIDE (R156). -/
def execTslide (d a : TileNo) (b : Reg) (m : MaskField) (s : State) :
    Host.Outcome State Fault Refusal :=
  run s true (tslide d a b m)

/-- One cell of TPERM for element `e` with index value `x` (R156). -/
def permCell (t : Tag) (src : Array Cell) (cols acols : Nat) (x : Nat × Val) : Cell :=
  match x.2 with
  | .int i => if 0 ≤ i && i < acols then src.getD (x.1 / cols * acols + i.toNat) (zeroCell t)
              else zeroCell t
  | .bad c => .new (.bad c) false .rne
  | .num _ => zeroCell t

/-- TPERM (R156). -/
def tperm (d a b : TileNo) (m : MaskField) : M Unit := do
  let rd ← bound d
  let ra ← bound a
  let rb ← bound b
  if rd.tag != ra.tag || !rb.tag.isInt then raise .typeState
  freshRecs [rd, ra, rb]
  if !rb.sameShape rd || ra.rows != rd.rows then raise .shapeMismatch
  let k ← getBlk
  let src := ((k.tile a).ver.cells ra).toArray
  maskedWrite d rd m .rne false false
    ((withIndex 0 (k.vals b rb)).map (permCell rd.tag src rd.ncols ra.ncols))

/-- TPERM (R156). -/
def execTperm (d a b : TileNo) (m : MaskField) (s : State) : Host.Outcome State Fault Refusal :=
  run s true (tperm d a b m)

end Sys2Proof.Machine
end

