-- ==== Sys2Proof/Machine/Loads.lean ====
section
/-! DEFINITION. Tile loads (R180 to R201, R356). -/
namespace Sys2Proof.Machine

/-! ## Elements from memory -/

/-- The poison of the lines that an element reads. -/
def crumbOf (cs : List (Nat × Crumb)) (lines : List Nat) : Option Crumb :=
  lines.foldl (fun a l => mergePoison a (journalAt cs l)) none

/-- Bytes of virtual addresses, little-endian, as `get` gives them. -/
def readVirtual (get : Nat → M Byte) (va n : Nat) : M Nat :=
  match n with
  | 0 => pure 0
  | n + 1 => do
    let b ← get va
    return b.toNat + 256 * (← readVirtual get (wrap64 (va + 1)) n)

/-- One element as it was loaded: its pattern in the encoding, its stored scale, its poison. -/
structure Loaded where
  pat : Nat
  scale : Nat
  poison : Option Crumb
  deriving DecidableEq, Repr

/-- Reads one element, whose poison is that of its own bytes' lines (R195). -/
def readSource (f : Mfmt) (m : PageMap) (cs : List (Nat × Crumb)) (get : Nat → M Byte) (x : Source) : M Loaded := do
  let w ← getThe Work
  let v ← readVirtual get x.va x.bytes
  let sc ← match x.scale with
    | some s => readVirtual get s 1
    | none => pure 0
  return { pat := v / 2 ^ x.shift % 2 ^ f.enc.width, scale := sc, poison := crumbOf cs (m.lines w x.ownOnly) }

/-- One line as an element of a DEVICE or STRONG page reads it, once for each element and in their order (R299): a peer's by
an UC_RD of its own, and one of this device at once, where what was read is kept until the instruction is over. -/
def strictLine (elem line : Nat) : M (List Byte) := do
  let w ← get
  let d := w.dev
  let mine (r : Req) : Bool := r.kind == .read && r.elem == some elem && r.line == line && r.by_ == some d.blk.id.key
  match d.link.reqs.find? mine with
  | some r =>
    match r.answer with
    | some a => return a.1
    | none => stay
  | none =>
    let far := regionOf (line * 128) = 3
    if !far then claimLine line false
    let w ← get
    let (tag, d) := w.dev.takeTag
    let r : Req := { tag := tag, kind := .read, peer := peerOf (line * 128), line := line, by_ := some d.blk.id.key,
                     slice := 16, elem := some elem, expect := none,
                     answer := if far then none else some (w.bytes (line * 128) 128, false) }
    let w := { w with dev := { d with link := { d.link with reqs := d.link.reqs ++ [r] } } }
    if far then do
      set (w.post (plainMsg .ucRd (peerOf (line * 128)) tag (peerLine (line * 128))) line)
      stay
    else do
      set w
      return w.bytes (line * 128) 128

/-- The bytes of an element that its lines give. -/
def lineByte (m : PageMap) (elem va : Nat) : M Byte := do
  let pa := (← get).redirect (m.pa va)
  return (← strictLine elem (lineOf pa)).getD (pa % 128) 0

/-- Reads every element of a DEVICE or STRONG page, where some lie at a peer, in ascending order (R299). -/
def readInOrder (m : PageMap) (xs : List (Nat × Source)) : M Unit :=
  match xs with
  | [] => pure ()
  | x :: r => do
    let w ← get
    for l in m.lines w x.2.ownOnly do
      let _ ← strictLine x.1 l
    readInOrder m r

/-- Makes ready and reads the elements that are performed (R195, R199, R200), and what that leaves in L2: `slice`
gives the lane group of an element (R194, R234). -/
def readElems (f : Mfmt) (o : Os) (m : PageMap) (slice : Nat → Nat) (u : Residency) (xs : List (Nat × Source)) :
    M (List (Nat × Loaded)) := do
  let xs := xs.map fun x => (x.1, x.2.ownOnly)
  let lines := m.allLines (← get) xs
  let chain := m.strict && lines.any fun l => regionOf (l * 128) = 3
  orderRead o m.strict lines
  if chain then readInOrder m xs else readyLines lines
  for l in lines do notePeerPoison l
  let cs ← crumbLines lines
  let es ← xs.mapM fun x => do
    return (x.1, ← readSource f m cs (if chain then lineByte m x.1 else fun va => readByte (m.pa va)) x.2)
  modify fun w => w.accessLines (m.demand w slice xs) false u
  dropReads
  return es

/-- The pattern that a clean line delivers: a floating pattern that looks like poison is the canonical NaN
(R103). -/
def deliver (t : Tag) (p : Nat) : Nat :=
  if t.isFloat && !t.narrow && t.fmt.looksPoison p then t.fmt.nanPat else p

/-- A loaded element in d's tag before scales are chosen (R183). -/
def loadCell (f : Mfmt) (t : Tag) (x : Loaded) : Cell :=
  let v := elemVal f.enc x.scale (.bits x.pat)
  match x.poison with
  | some c => .same (.poison c) (.bad c)
  | none => if f.enc = t then .same (.bits (deliver t x.pat)) v else .new v false f.rm

/-- The cell of an element, if it is performed: loaded, or a fill (R187, R188). -/
def srcCell (f : Mfmt) (t : Tag) (es : List (Nat × Loaded)) (e : Nat) (s : Src) : Option Cell :=
  match s with
  | .off => none
  | .fill p => some (loadCell f t { pat := p, scale := 127, poison := none })
  | .at_ _ => (journalAt es e).map (loadCell f t)

/-- An element of a narrow block as it was stored (R183); a block of scale 0xFF is a plain NaN block (R103). -/
def storedElem (l : Loaded) : Elem :=
  match l.poison with
  | some c => .poison c
  | none => .bits (if l.scale = 255 then 0 else l.pat)

/-- The scale of its block as it was stored. -/
def storedScale (l : Loaded) : Nat := if l.poison.isSome then 255 else l.scale

/-- An element of a narrow d that takes stored blocks whole, with its block's scale (R183, R196): loaded, a fill, or the
prior one. -/
def blockCell (es : List (Nat × Loaded)) (e : Nat) (s : Src) (p : Elem × Nat) : Elem × Nat :=
  match s with
  | .off => p
  | .fill _ => (.bits 0, 0)
  | .at_ _ => match journalAt es e with
    | some l => (storedElem l, storedScale l)
    | none => p

/-- The prior elements of d with their blocks' scales. -/
def Block.priorBlocks (b : Block) (d : TileNo) (r : ShapeRec) : List (Elem × Nat) :=
  let v := (b.tile d).ver
  let sc := if v.empty then #[] else v.scales.toArray
  (withIndex 0 (v.elements r)).map fun (e, x) =>
    (x, sc.getD (e / r.ncols * blocksOf r.ncols + e % r.ncols / 32) 0)

/-- The elements and scales of a narrow d where the blocks of which nothing was delivered stay as they were (R196). -/
def keepBlocks (r : ShapeRec) (old : List (Elem × Nat)) (gone : List Bool) (new : List Elem × List Nat) :
    List Elem × List Nat :=
  let g := gone.toArray
  let o := old.toArray
  let nb := blocksOf r.ncols
  let keeps (i k : Nat) : Bool := (List.range 32).all fun j =>
    r.ncols ≤ 32 * k + j || g.getD (i * r.ncols + 32 * k + j) true
  let prior (e : Nat) : Elem × Nat := o.getD e (.bits 0, 0)
  ((withIndex 0 new.1).map fun (e, x) => if keeps (e / r.ncols) (e % r.ncols / 32) then (prior e).1 else x,
   (withIndex 0 new.2).map fun (q, x) =>
     if keeps (q / nb) (q % nb) then (prior (q / nb * r.ncols + 32 * (q % nb))).2 else x)

/-- A narrow block with a poison element is a poison block (R98, R195): its cells, with the scale. -/
def poisonBlock (xs : List (Elem × Nat)) : List (Elem × Nat) :=
  let c := xs.foldl (fun a x => mergePoison a (match x.1 with
    | .poison c => some c
    | .bits _ => none)) none
  match c with
  | some c => xs.map fun _ => (.poison c, 255)
  | none => xs

/-- The leading rows that are complete where `bits` marks the row groups (R44). -/
def leadingRows (rows bits : Nat) : Nat :=
  let groups := ceilDiv rows 8
  Nat.min rows (8 * (((List.range groups).find? fun g => !bits.testBit g).getD groups))

/-- The arrival bits of the row groups in which no element is missing (R44, R199). -/
def arrivedBits (r : ShapeRec) (missing : List Nat) : Nat :=
  let bad := missing.map fun e => e / r.ncols / 8
  (List.range (ceilDiv r.rows 8)).foldl (fun a g => if bad.contains g then a else a ||| 2 ^ g) 0

/-- Marks the arrival of a version that a load has just written, its complete rows where the load is not over, and its
valid length (R44, R199, R223). -/
def markLoad (d : TileNo) (r : ShapeRec) (whole : Bool) (missing : List Nat) (valid : Nat) : M Unit :=
  modifyBlk fun b =>
    let bits := arrivedBits r missing
    b.setVer d { (b.tile d).ver with arrived := bits, valid := valid,
                                     progress := if whole then r.rows else leadingRows r.rows bits }

/-- Writes what a load delivers (R43, R152, R183, R196): under m0 a narrow d of the same encoding keeps the stored
scales; blocks of which nothing is delivered stay as they were. -/
def writeLoad (d : TileNo) (r : ShapeRec) (f : Mfmt) (plain : Bool) (srcs : List Src)
    (es : List (Nat × Loaded)) : M Unit := do
  if (withIndex 0 srcs).any fun x => (srcCell f r.tag es x.1 x.2).isNone then meetRows [d]
  let b ← getBlk
  if plain && r.tag.narrow && f.enc == r.tag then do
    let xs := (withIndex 0 (srcs.zip (b.priorBlocks d r))).map fun (e, s, p) => blockCell es e s p
    let xs := (chunks xs.length r.ncols xs).flatMap fun row => (chunks row.length 32 row).flatMap poisonBlock
    let arr := xs.toArray
    let firsts := (List.range r.rows).flatMap fun i =>
      (List.range (blocksOf r.ncols)).map fun k => (arr.getD (i * r.ncols + 32 * k) (.bits 0, 0)).2
    putTile d r (xs.map (·.1)) firsts
  else do
    let new := (withIndex 0 srcs).map fun (e, s) => srcCell f r.tag es e s
    let cells := List.zipWith (fun x p => x.getD p) new (b.priorCells d r)
    let out := r.tag.assemble r.ncols f.rm f.sat false cells
    let (xs, sc) := if r.tag.narrow then keepBlocks r (b.priorBlocks d r) (new.map (·.isNone)) out else out
    putTile d r xs sc

/-! ## The loads of R186 to R188 -/

/-- The checks of its destination that a tile load makes first (R53, R181, order 1). -/
def loadStart (d : TileNo) : M ShapeRec := do
  let r ← bound d
  freshRecs [r]
  return r

/-- What a load with a poisoned write mask does (R101, R186): its scalar address is still checked. The whole version is
valid, for TLDC too (R190, log entry 39). -/
def poisonedLoad (d : TileNo) (r : ShapeRec) (c : Crumb) (reserve : Nat) : M Unit := do
  needRows (r.storage (← getBlk).place.width + reserve)
  poisonTile d r c
  markLoad d r true [] r.size

/-- Under COMPAT nothing is delivered from the first faulted element on (R225). -/
def cutAt (compat : Bool) (bad : Option Faulted) (srcs : List Src) : List Src :=
  match compat, bad with
  | true, some f => srcs.take f.first ++ (srcs.drop f.first).map fun _ => .off
  | _, _ => srcs

/-- The lane group that an element of d goes to or comes from (R150, R291). -/
def Block.groupOf (b : Block) (r : ShapeRec) (e : Nat) : Nat := r.tag.sliceOf b.place (e % r.ncols)

/-- A load that completes under m7, from the sources of its elements on (R181, R194, R196, R197, R225): `foot` is its
footprint, `u` the part of the core's unit that translates. -/
def loadFrom (i : Issue) (d : TileNo) (r : ShapeRec) (f : Mfmt) (m : MaskField) (h : BitVec 1) (foot : Nat) (o : Os)
    (u : TlbUnit) (srcs : List Src) : M Unit := do
  let b ← getBlk
  let xs := (reads srcs).filter fun x => i.from_ ≤ x.1
  aligned f.enc.unit xs
  let pm ← reachAll u .read xs
  let bad := faulted pm i.one xs
  let live := performable b.ps.compat bad xs
  noBreach pm live
  needRows (r.storage b.place.width + b.m7Rows r)
  needBatch bad
  let es ← readElems f o pm (b.groupOf r) (b.residency h foot) live
  writeLoad d r f (m == 0) (cutAt b.ps.compat bad srcs) es
  let missing := (xs.map (·.1)).filter fun e => !live.any (·.1 == e)
  markLoad d r (bad.isNone || !b.ps.compat) missing r.size
  finish i d r bad

/-- Elements below ESTART were performed before (R225). -/
def Issue.skip (i : Issue) (srcs : List Src) : List Src :=
  (withIndex 0 srcs).map fun (e, s) => if e < i.from_ then .off else s

/-- The footprint of `R` rows of `rb` bytes at a stride (R194, R268). -/
def rowFootprint (r : ShapeRec) (rb : Nat) (stride : Int) : Nat := (r.rows - 1) * stride.natAbs + rb

/-- The footprint of the elements that are no fills, `n` bytes each, selected or not (R194). -/
def elemFootprint (n size : Nat) (at_ : Nat → Option Nat) : Nat :=
  n * ((List.range size).filter fun e => (at_ e).isSome).length

/-- The footprint of a gather or scatter of whole rows: the rows that it names, fills aside (R194). -/
def rowsFootprint (r : ShapeRec) (rb : Nat) (at_ : Nat → Option Nat) : Nat :=
  rb * ((List.range r.rows).filter fun i => (at_ i).isSome).length

/-- TLD, TLDS and TLDB: rows at a base and a stride (R186). -/
def rowLoad (d : TileNo) (a : Reg) (x : Option Reg) (stride : Mfmt → ShapeRec → Block → Int)
    (m : MaskField) (h : BitVec 1) (o : Os) : M Unit := do
  let i ← issue
  let r ← loadStart d
  let f ← mfmt r.tag false
  let b ← getBlk
  if (b.rs a).poison.isSome || (x.map fun x => (b.rs x).poison.isSome) == some true then
    raise .poisonAddr
  let base := (b.sv a).toNat
  let st := stride f r b
  let m := i.mask m
  let mask := b.rm_ m
  if st % f.enc.unit != 0 && x.isSome then raise .addrAlign
  match mask.poison with
  | some c =>
    if base % f.enc.unit != 0 then raise .addrAlign
    poisonedLoad d r c (b.m7Rows r)
    endWhole i r
  | none =>
    let at_ (row : Nat) : Option Nat := some ((base + st * row) % 2 ^ 64).toNat
    loadFrom i d r f m h (rowFootprint r (f.enc.rowBytes r.ncols) st) o b.laneUnit (i.skip (rowSrcs f r (mask.select r.size) at_))

/-- TLD (R186). -/
def execTld (d : TileNo) (a : Reg) (m : MaskField) (h : BitVec 1) (o : Os) (s : State) :
    Host.Outcome State Fault Refusal :=
  run s true (rowLoad d a none (fun f r _ => f.enc.rowBytes r.ncols) m h o)

/-- TLDS (R186). -/
def execTlds (d : TileNo) (a b : Reg) (m : MaskField) (h : BitVec 1) (o : Os) (s : State) :
    Host.Outcome State Fault Refusal :=
  run s true (rowLoad d a (some b) (fun _ _ k => (k.sv b).toInt) m h o)

/-- TLDB (R186). -/
def execTldb (d : TileNo) (a : Reg) (m : MaskField) (h : BitVec 1) (o : Os) (s : State) :
    Host.Outcome State Fault Refusal :=
  run s true (rowLoad d a none (fun _ _ _ => 0) m h o)

/-- An index of a gather or scatter (R187, R277): fill, poison, or a number. -/
inductive Index where
  | fill
  | poison
  | val (n : Int)
  deriving DecidableEq, Repr

/-- Reads an index element: all ones is the fill index. -/
def indexOf (t : Tag) (e : Elem) : Index :=
  match e with
  | .poison _ => .poison
  | .bits p => if p = 2 ^ t.width - 1 then .fill else .val (intValue t.signed t.width p)

/-- The shape of an index tile: rows, or elements (R187, R277). -/
inductive Gather where
  | byRow
  | byElem
  deriving DecidableEq, Repr

/-- The mode that an index tile's shape selects (R187). -/
def gatherMode (r x : ShapeRec) : M Gather := do
  if x.rows == r.rows && x.ncols == 1 then return .byRow
  else if x.sameShape r then return .byElem
  else raise .shapeMismatch

/-- A selected poisoned index traps at the lowest element that takes it (R181). -/
def noPoisonIndex (sel : List Bool) (idx : Nat → Index) : M Unit :=
  match (withIndex 0 sel).find? fun x => x.2 && idx x.1 == .poison with
  | some (e, _) => raiseAt .poisonAddr e
  | none => pure ()

/-- The address of an index. -/
def Index.addr (x : Index) (base pitch : Nat) : Option Nat :=
  match x with
  | .val n => some ((base + n * pitch) % 2 ^ 64).toNat
  | _ => none

/-- TLDG (R187): the index tile's tag is a cause of R53, before those of R181. -/
def tldg (d : TileNo) (a : Reg) (x : TileNo) (m : MaskField) (h : BitVec 1) (o : Os) : M Unit := do
  let i ← issue
  let r ← bound d
  let rx ← bound x
  if !rx.tag.isInt then raise .typeState
  freshRecs [r, rx]
  let mode ← gatherMode r rx
  let f ← mfmt r.tag (mode == .byElem)
  let b ← getBlk
  if (b.rs a).poison.isSome then raise .poisonAddr
  let base := (b.sv a).toNat
  let m := i.mask m
  let mask := b.rm_ m
  match mask.poison with
  | some c =>
    if base % f.enc.unit != 0 then raise .addrAlign
    poisonedLoad d r c (b.m7Rows r)
    endWhole i r
  | none =>
    let es := ((b.tile x).ver.elements rx).toArray
    let at_ (k : Nat) : Index := indexOf rx.tag (es.getD k (.bits 0))
    let sel := mask.select r.size
    match mode with
    | .byRow =>
      noPoisonIndex sel fun e => at_ (e / r.ncols)
      let rb := f.enc.rowBytes r.ncols
      let row (k : Nat) : Option Nat := (at_ k).addr base rb
      loadFrom i d r f m h (rowsFootprint r rb row) o .gather (i.skip (rowSrcs f r sel row))
    | .byElem =>
      noPoisonIndex sel at_
      let elem (e : Nat) : Option Nat := (at_ e).addr base f.enc.unit
      let srcs := (withIndex 0 sel).map fun (e, s) =>
        if s then match elem e with
          | some va => Src.at_ (f.source va 1 0)
          | none => Src.fill 0
        else Src.off
      loadFrom i d r f m h (elemFootprint f.enc.unit r.size elem) o .gather (i.skip srcs)

/-- TLDG (R187). -/
def execTldg (d : TileNo) (a : Reg) (b : TileNo) (m : MaskField) (h : BitVec 1) (o : Os) (s : State) :
    Host.Outcome State Fault Refusal :=
  run s true (tldg d a b m h o)

/-! ## Tensor maps -/

/-- A walk dimension (R188, R356). -/
structure WalkDim where
  extent : Nat
  target : Nat
  col : Bool
  step : Int
  deriving DecidableEq, Repr

/-- A tensor map (R188, R356). -/
structure TensorMap where
  base : Nat
  ext : List Nat
  stride : List Int
  dims : List WalkDim
  fill : Nat
  deriving DecidableEq, Repr

/-- One walk dimension's eight bytes (R356). -/
def walkDim (v : Word) : WalkDim :=
  { extent := (v.extractLsb' 0 16).toNat, target := (v.extractLsb' 16 2).toNat, col := v.getLsbD 18,
    step := (v.extractLsb' 32 16).toInt }

/-- A walk dimension keeps to R356. -/
def walkDimOk (k : Nat) (v : Word) : Bool :=
  v.extractLsb' 0 16 != 0 && (v.extractLsb' 16 2).toNat < k && v.extractLsb' 19 13 == 0 &&
    v.extractLsb' 48 16 == 0

/-- The tensor map of 128 bytes, if every field keeps to R188 and R356. -/
def tensorMap (w : Nat) (bs : List Byte) : Option TensorMap :=
  let g (i n : Nat) : Nat := leNat ((bs.drop i).take n)
  let k := g 8 1 % 8
  let d := g 9 1
  let ext := (List.range 4).map fun i => g (24 + 4 * i) 4
  let strides := (List.range 4).map fun i => g (40 + 8 * i) 8
  let dims := (List.range 6).map fun i => BitVec.ofNat 64 (g (72 + 8 * i) 8)
  if g 8 1 < 8 && 1 ≤ k && k ≤ 4 && 1 ≤ d && d ≤ 6 && g 10 1 < 2 && g 11 5 == 0 && g 120 8 == 0 &&
      g 16 8 < 2 ^ w && (ext.take k).all (· != 0) && (ext.drop k).all (· == 0) &&
      (strides.drop k).all (· == 0) && (dims.take d).all (walkDimOk k) && (dims.drop d).all (· == 0)
  then
    some { base := g 0 8, ext := ext.take k,
           stride := (strides.take k).map fun s => intValue true 64 s,
           dims := (dims.take d).map walkDim, fill := if g 10 1 = 1 then g 16 8 else 0 }
  else none

/-- The steps of index `n` over walk dimensions, the last listed fastest (R188): per tensor dimension, or
none beyond the extents. -/
def walkSteps (k : Nat) (dims : List WalkDim) (n : Nat) : Option (List Int) :=
  let (left, xs) := dims.foldr (fun w (n, xs) =>
    (n / w.extent, (w.target, w.step * (n % w.extent : Nat)) :: xs)) (n, ([] : List (Nat × Int)))
  if left = 0 then
    some ((List.range k).map fun t => ((xs.filter fun x => x.1 == t).map (·.2)).sum)
  else none

/-- The address of element (i, j) of the window, or none for a fill (R188). -/
def TensorMap.addr (t : TensorMap) (origin : Word) (i j : Nat) : Option Nat :=
  let k := t.ext.length
  match walkSteps k (t.dims.filter (!·.col)) i, walkSteps k (t.dims.filter (·.col)) j with
  | some u, some v =>
    let xs : List Int := (List.range k).map fun n =>
      (origin.extractLsb' (16 * n) 16).toInt + u.getD n 0 + v.getD n 0
    let inside := (xs.zip t.ext).all fun p => decide (0 ≤ p.1) && decide (p.1 < (p.2 : Int))
    let off : Int := (List.zipWith (fun x b => x * b) xs t.stride).sum
    if inside then some ((t.base + off) % 2 ^ 64).toNat else none
  | _, _ => none

/-- Reads the 128 bytes of a map, through the scalar path, with their line: a misaligned or poisoned one is invalid
(R356). -/
def readMap (va : Nat) : M (Nat × List Byte) := do
  if va % 128 != 0 then raise .tmapInvalid
  let (pa, _) ← reachScalar va .read
  drainFor [lineOf pa]
  let line ← readyAt pa
  if ← lineIsBad line then raise .tmapInvalid
  let v ← readNat pa 128
  return (line, natLe 128 v)

/-- TLDW (R188). -/
def tldw (d : TileNo) (a x : Reg) (m : MaskField) (h : BitVec 1) (o : Os) : M Unit := do
  let i ← issue
  let r ← loadStart d
  let f ← mfmt r.tag true
  let b ← getBlk
  if (b.rs a).poison.isSome || (b.rs x).poison.isSome then raise .poisonAddr
  let m := i.mask m
  let mask := b.rm_ m
  match mask.poison with
  | some c =>
    if (b.sv a).toNat % 128 != 0 then raise .tmapInvalid
    poisonedLoad d r c (b.m7Rows r)
    endWhole i r
  | none =>
    let (line, bs) ← readMap (b.sv a).toNat
    match tensorMap f.enc.width bs with
    | none => raise .tmapInvalid
    | some t =>
      let k := t.ext.length
      if b.sv x >>> (16 * k) != 0 then raise .tmapInvalid
      let u := f.enc.unit
      if t.base % u != 0 || t.stride.any fun s => s % u != 0 then raise .addrAlign
      let elem (e : Nat) : Option Nat := t.addr (b.sv x) (e / r.ncols) (e % r.ncols)
      let foot := elemFootprint u r.size elem
      modify fun w => w.scalarL2 line false (b.residency h foot)
      let srcs := (withIndex 0 (mask.select r.size)).map fun (e, s) =>
        if s then match elem e with
          | some va => Src.at_ (f.source va 1 0)
          | none => Src.fill t.fill
        else Src.off
      loadFrom i d r f m h foot o b.laneUnit (i.skip srcs)

/-- TLDW (R188). -/
def execTldw (d : TileNo) (a b : Reg) (m : MaskField) (h : BitVec 1) (o : Os) (s : State) :
    Host.Outcome State Fault Refusal :=
  run s true (tldw d a b m h o)

/-! ## Scratch -/

/-- An uncorrectable error in the scratch bytes of the block (R195, R228). -/
def Work.scratchUpset (w : Work) (seg : Nat) : Option Upset :=
  w.dev.unc.upsets.find? fun u => u.fatal && u.loc == .scratch w.dev.blk.id.key seg

/-- A read corrects the single-bit errors of the scratch segments that it reads (R215). -/
def Work.correctScratch (w : Work) (segs : List Nat) : Work :=
  (w.dev.unc.upsets.filter fun u => !u.fatal && segs.any fun g => u.loc == .scratch w.dev.blk.id.key g).foldl
    (fun w u => w.endCell u 1 0) w

/-- The 16-byte segments of a source, in scratch (R229). -/
def Source.segs (x : Source) : List Nat :=
  (x.ranges.flatMap fun (a, n) => (List.range (n / 16 + 2)).filterMap fun k =>
    if a / 16 + k ≤ (a + n - 1) / 16 then some (a / 16 + k) else none).eraseDups

/-- A read of a scratch segment meets its error, which is over then: it poisons this read alone (R195, R215, R228). -/
def Work.meetScratch (w : Work) (g : Nat) : Work :=
  match w.scratchUpset g with
  | some u => w.endCell u 1 g
  | none => w

/-- Allocates the entries of scratch segments that met an error (R195, R360). -/
def Work.scratchCrumbs (w : Work) (segs : List Nat) (count : Nat) (last : Crumb) :
    List (Nat × Crumb) × Work :=
  match segs with
  | [] => ([], w)
  | g :: r =>
    let b := w.dev.blk
    if count < 32 then
      let syn := ((w.scratchUpset g).map (·.syndrome.toNat)).getD 0
      let (c, w) := w.crumb b.id.ctx { kind := 4, form := 2, loc := 16 * g, syn := syn, pc := b.pc,
                                       engine := false, key := b.id.key }
      let (cs, w) := (w.meetScratch g).scratchCrumbs r (count + 1) c
      ((g, c) :: cs, w)
    else
      let (cs, w) := (w.meetScratch g).scratchCrumbs r count last
      ((g, { last with merged := true }) :: cs, w)

/-- Bytes of scratch, little-endian. -/
def scratchNat (m : Memory) (a n : Nat) : Nat :=
  match n with
  | 0 => 0
  | n + 1 => (cellAt 0 m a).toNat + 256 * scratchNat m (a + 1) n

/-- An element read from scratch. -/
def scratchElem (f : Mfmt) (mem : Memory) (cs : List (Nat × Crumb)) (x : Source) : Loaded :=
  { pat := scratchNat mem x.va x.bytes / 2 ^ x.shift % 2 ^ f.enc.width,
    scale := (x.scale.map fun a => scratchNat mem a 1).getD 0, poison := crumbOf cs x.segs }

/-- Every byte lies in the block's scratch (R186, R280). -/
def inScratch (b : Block) (x : Source) : Bool :=
  x.ranges.all fun (a, n) => a + n ≤ b.place.scratch

/-- TLDSH (R186): it translates nothing, so R225 neither starts it from ESTART nor clears that (log entry 40). -/
def tldsh (d : TileNo) (a : Reg) (m : MaskField) : M Unit := do
  let i ← issue
  let r ← loadStart d
  let f ← mfmt r.tag false
  let b ← getBlk
  if (b.rs a).poison.isSome then raise .poisonAddr
  let base := (b.sv a).toNat
  let mask := b.rm_ (i.mask m)
  match mask.poison with
  | some c =>
    if base % f.enc.unit != 0 then raise .addrAlign
    poisonedLoad d r c 0
    endAgain i r
  | none =>
    let rb := f.enc.rowBytes r.ncols
    let srcs := rowSrcs f r (mask.select r.size) fun row => some (wrap64 (base + rb * row))
    let xs := reads srcs
    aligned f.enc.unit xs
    match xs.find? fun x => !inScratch b x.2 with
    | some (e, _) => raiseAt .scratchRange e
    | none => pure ()
    needRows (r.storage b.place.width)
    let all := (xs.flatMap fun x => x.2.segs).eraseDups
    modify fun w => if w.dev.unc.upsets = [] then w else w.correctScratch all
    let w ← get
    let segs := all.filter fun g => (w.scratchUpset g).isSome
    let cs ← modifyGet fun w => w.scratchCrumbs segs 0 { origin := 0, merged := false }
    let es := xs.map fun x => (x.1, scratchElem f b.scratch cs x.2)
    writeLoad d r f (i.mask m == 0) srcs es
    markLoad d r true [] r.size
    endAgain i r

/-- TLDSH (R186). -/
def execTldsh (d : TileNo) (a : Reg) (m : MaskField) (s : State) : Host.Outcome State Fault Refusal :=
  run s true (tldsh d a m)

/-! ## Streams and mask images -/

/-- The crumbs of lines, each line named once by an instruction (R195). -/
abbrev Seen := List (Nat × Nat)

/-- Bytes at a virtual address, page by page, waiting as a scalar load waits (R190, R191, R198): each byte
with its line. `elem` says which element the k-th byte belongs to, for a page that forbids the read (R181). -/
def streamBytes (o : Os) (elem : Nat → Nat) (va k n : Nat) : M (List (Byte × Nat)) :=
  match n with
  | 0 => pure []
  | n + 1 => do
    let (pa, l) ← reachFor (← getBlk).laneUnit (elem k) va .read
    orderRead o l.strict [lineOf pa]
    let line ← readyAt pa
    let b ← readByte pa
    return (b, line) :: (← streamBytes o elem (wrap64 (va + 1)) (k + 1) n)

/-- An element of a stream: its pattern and the lines of its bytes. -/
structure Streamed where
  pat : Nat
  lines : List Nat
  deriving DecidableEq, Repr

/-- A pattern of bytes with their lines. -/
def streamed (extra : List Nat) (bs : List (Byte × Nat)) : Streamed :=
  { pat := leNat (bs.map (·.1)), lines := (extra ++ bs.map (·.2)).eraseDups }

/-- The elements of a MASKED chunk: a 0 bit expands to zero (R189). An element of either kind takes the poison of the
line of its bitmap byte (R195, log entry 82). -/
def maskedChunk (eb count k : Nat) (bitmap : Array (Byte × Nat)) (vals : List (Byte × Nat)) :
    List Streamed :=
  match count with
  | 0 => []
  | n + 1 =>
    let (b, l) := bitmap.getD (k / 8) (0, 0)
    if b.getLsbD (k % 8) then
      streamed [l] (vals.take eb) :: maskedChunk eb n (k + 1) bitmap (vals.drop eb)
    else { pat := 0, lines := [l] } :: maskedChunk eb n (k + 1) bitmap vals

/-- The places of the one bits of a bitmap. -/
def onesOf (count : Nat) (bs : List (Byte × Nat)) : List Nat :=
  let v := leNat (bs.map (·.1))
  (List.range count).filter fun i => v.testBit i

/-- The one bits among the first `count` of a bitmap; those past them are not counted (R189, log entry 82). -/
def bitmapOnes (count : Nat) (bs : List (Byte × Nat)) : Nat := (onesOf count bs).length

/-- The elements of one chunk after its header's check (R189); `elem` gives the element of d that one of the chunk becomes. -/
def chunk (o : Os) (elem : Nat → Nat) (eb va count pl coding : Nat) : M (List Streamed) := do
  let bad : M (List Streamed) := raise .compStream
  if count = 0 then bad
  else match coding with
    | 0 =>
      if pl != count * eb then bad
      else do
        let bs ← streamBytes o (fun k => elem (k / eb)) va 0 pl
        return (chunks count eb bs).map (streamed [])
    | 1 => do
      let nb := ceilDiv count 8
      if pl < nb then bad
      else do
        let map_ ← streamBytes o (fun k => elem (8 * k)) va 0 nb
        if pl != nb + bitmapOnes count map_ * eb then bad
        else do
          let ones := (onesOf count map_).toArray
          let vals ← streamBytes o (fun k => elem (ones.getD (k / eb) 0)) (wrap64 (va + nb)) 0 (pl - nb)
          return maskedChunk eb count 0 map_.toArray vals
    | 2 =>
      if pl != eb then bad
      else do
        let bs ← streamBytes o (fun _ => elem 0) va 0 pl
        return List.replicate count (streamed [] bs)
    | _ => bad

/-- The expansion of R190: whole chunks while they fit, and the lines of the headers that were read. A header on a
poisoned line is taken as it stands (R195, log entry 82). -/
def expandStream (o : Os) (elem : Nat → Nat) (eb base bound cap fuel pos n : Nat) : M (List Streamed × List Nat) :=
  match fuel with
  | 0 => pure ([], [])
  | k + 1 => do
    if bound < pos + 8 then return ([], [])
    else do
      let hd ← streamBytes o (fun _ => elem n) (wrap64 (base + pos)) 0 8
      let h := leNat (hd.map (·.1))
      let count := h % 2 ^ 32
      let pl := h / 2 ^ 32 % 2 ^ 24
      let size := 8 + ceilDiv pl 8 * 8
      if bound < pos + size || cap < n + count then return ([], hd.map (·.2))
      else do
        if h / 2 ^ 60 != 0 then raise .compStream
        let xs ← chunk o (fun k => elem (n + k)) eb (wrap64 (base + pos + 8)) count pl (h / 2 ^ 56 % 16)
        let (ys, ls) ← expandStream o elem eb base bound cap k (pos + size) (n + count)
        return (xs ++ ys, hd.map (·.2) ++ ls)

/-- Places stream elements at the selected positions, in order; later ones are zero (R190). -/
def placeStream (sel : List Bool) (xs : List Loaded) : List (Option Loaded) :=
  match sel with
  | [] => []
  | false :: r => none :: placeStream r xs
  | true :: r =>
    match xs with
    | [] => some { pat := 0, scale := 127, poison := none } :: placeStream r []
    | x :: ys => some x :: placeStream r ys

/-- The lines of a stream, each with the lane group of the first element that uses it, a header's with that of the
element behind it (R234); `at_` are the elements' places in d. -/
def streamDemand (slice : Nat → Nat) (at_ : List Nat) (xs : List Streamed) (heads : List Nat) : List (Nat × Nat) :=
  let uses := ((xs.zip at_).flatMap fun (x, e) => x.lines.map fun l => (l, slice e)) ++
    heads.map fun l => (l, slice (at_.headD 0))
  (uses.map (·.1)).eraseDups.map fun l => (l, (journalAt uses l).getD 0)

/-- TLDC (R189, R190, R194, R198). -/
def tldc (d : TileNo) (a x : Reg) (m : MaskField) (h : BitVec 1) (o : Os) : M Unit := do
  gate
  let r ← loadStart d
  let f ← mfmt r.tag true
  let b ← getBlk
  if (b.rs a).poison.isSome || (b.rs x).poison.isSome then raise .poisonAddr
  let base := (b.sv a).toNat
  if base % f.enc.unit != 0 then raise .addrAlign
  let mask := b.rm_ m
  match mask.poison with
  | some c => poisonedLoad d r c 0
  | none =>
    let sel := mask.select r.size
    let cap := (sel.filter id).length
    let bound := (b.sv x).toNat
    let at_ := (withIndex 0 sel).filterMap fun (e, s) => if s then some e else none
    let (xs, heads) ← expandStream o (fun k => at_.getD k 0) f.enc.unit base bound cap (cap + 1) 0 0
    needRows (r.storage b.place.width)
    let cs ← crumbLines (xs.flatMap (·.lines)).eraseDups
    let ls := xs.map fun e =>
      ({ pat := e.pat, scale := 127, poison := crumbOf cs e.lines } : Loaded)
    let prior := b.priorCells d r
    let cells := (placeStream sel ls).zipWith (fun l p => (l.map (loadCell f r.tag)).getD p) prior
    writeCells d r f.rm f.sat false cells
    markLoad d r true [] xs.length
    modify fun w => w.accessLines (streamDemand (b.groupOf r) at_ xs heads) false (b.residency h bound)
    dropReads

/-- TLDC (R190). -/
def execTldc (d : TileNo) (a b : Reg) (m : MaskField) (h : BitVec 1) (o : Os) (s : State) :
    Host.Outcome State Fault Refusal :=
  run s true (tldc d a b m h o)

/-- TLDM (R191, R194, R198): a header on a poisoned line is taken as it stands and may raise MASK_IMAGE (log
entry 82). -/
def tldm (d : MaskField) (a : Reg) : M Unit := do
  gate
  let b ← getBlk
  if (b.rs a).poison.isSome then raise .poisonAddr
  let va := (b.sv a).toNat
  if va % 8 != 0 then raise .addrAlign
  let head ← streamBytes 0 (fun _ => 0) va 0 8
  let h := leNat (head.map (·.1))
  let n := h % 2 ^ 32
  let body ← streamBytes 0 (8 * ·) (wrap64 (va + 8)) 0 (ceilDiv n 8)
  if h / 2 ^ 33 != 0 then raise .maskImage
  let fill := h.testBit 32
  let plain : MaskReg :=
    { n := n, fill := fill, bits := leNat (body.map (·.1)) % 2 ^ n, poison := none }
  if d != 0 then needRows (plain.storage b.place.width)
  let lines := ((head ++ body).map (·.2)).eraseDups
  let cs ← crumbLines lines
  let mask := match crumbOf cs lines with
    | some c => { plain with bits := 0, poison := some c }
    | none => plain
  putMask d mask
  modify fun w => w.accessLines (lines.map fun l => (l, b.place.lane / 8)) false (b.residency 0 (8 + ceilDiv n 8))
  dropReads

/-- TLDM (R191). -/
def execTldm (d : MaskField) (a : Reg) (s : State) : Host.Outcome State Fault Refusal :=
  run s true (tldm d a)

end Sys2Proof.Machine
end

