-- ==== Sys2Proof/Machine/Shape.lean ====
section
/-! DEFINITION. Shape records, share negotiation, re-lay, bindings (R138 to R149, R215, R216). -/
namespace Sys2Proof.Machine

/-! ## Descriptors and records -/

/-- A shape descriptor is valid (R139). -/
def descriptorOk (v : Word) : Bool :=
  let code := (v.extractLsb' 0 5).toNat
  let cols := v.extractLsb' 19 16
  !v.getLsbD 7 && v.extractLsb' 35 29 == 0 && 1 ≤ code && code ≤ 17 &&
    (v.extractLsb' 8 11).toNat ≤ 1535 && (v.getLsbD 5 == (cols == 0))

/-- The record that a valid descriptor gives under a grant (R139, R146). -/
def recordOf (v : Word) (g : Nat) : ShapeRec :=
  { code := v.extractLsb' 0 5, grant := v.getLsbD 5, dead := v.getLsbD 6, stale := false,
    rowsM1 := v.extractLsb' 8 11,
    cols := if v.getLsbD 5 then BitVec.ofNat 16 g else v.extractLsb' 19 16 }

/-- A record as the 64-bit value of R139. -/
def ShapeRec.word (r : ShapeRec) : Word :=
  BitVec.ofNat 64 (r.code.toNat + (if r.grant then 32 else 0) + (if r.dead then 64 else 0) +
    (if r.stale then 128 else 0) + 2 ^ 8 * r.rowsM1.toNat + 2 ^ 19 * r.cols.toNat)

/-- The record of a stored 64-bit value (R139). -/
def ShapeRec.ofWord (v : Word) : ShapeRec :=
  { code := v.extractLsb' 0 5, grant := v.getLsbD 5, dead := v.getLsbD 6, stale := v.getLsbD 7,
    rowsM1 := v.extractLsb' 8 11, cols := v.extractLsb' 19 16 }

/-! ## Negotiation -/

/-- Lanes `lo` to `lo + n - 1` of a core are held by no other block and by no fenced lane group. -/
def Dev.lanesFree (d : Dev) (self : BlockKey) (core lo n : Nat) : Bool :=
  (d.blocks.all fun b => !b.resident || b.id.key == self || b.place.core != core ||
      b.place.lane + b.place.share ≤ lo || lo + n ≤ b.place.lane) &&
    (List.range 16).all fun g => !(d.core core).fenced.getLsbD g || 8 * g + 8 ≤ lo || lo + n ≤ 8 * g

/-- No other block is resident in the core (R147). -/
def Dev.aloneInCore (d : Dev) (self : BlockKey) (core : Nat) : Bool :=
  d.blocks.all fun b => !b.resident || b.id.key == self || b.place.core != core

/-- The legal shares, widest first (R17). -/
def shares : List Nat := [128, 32, 16, 8, 4]

/-- The share that a request is granted (R147). -/
def Dev.negotiate (d : Dev) (req : Nat) : Nat :=
  let b := d.blk
  let p := b.place
  let cur := p.share
  let cap := (d.core p.core).shareCap
  let want := Nat.min (if req = 0 then cur else req) cap
  if want ≤ cur then want
  else
    let free (c : Nat) : Bool :=
      (if p.width = 4096 then c ≤ 32 else c != 128 || d.aloneInCore b.id.key p.core) &&
        d.lanesFree b.id.key p.core (p.lane - p.lane % c) c
    ((shares.filter fun c => c ≤ want && cur ≤ c).find? free).getD cur

/-- The lowest-numbered partition that holds no fenced lane group (R147); DESIGN CHOICE, log entry 80: partition 0
where every one holds such a group. -/
def Core.cleanPartition (c : Core) : Nat :=
  ((List.range 4).find? fun q => (c.fenced.extractLsb' (4 * q) 4) == 0#4).getD 0

/-- A block's place after its share becomes `l` (R147). -/
def Dev.moved (d : Dev) (p : Place) (l : Nat) : Place :=
  if l = p.share then p
  else if l = 128 then { p with share := l, part := 0, lane := 0, slot := 0 }
  else if p.share = 128 then
    let q := (d.core p.core).cleanPartition
    { p with share := l, part := q, lane := 32 * q }
  else { p with share := l, lane := p.lane - p.lane % l }

/-- The effective share of `l` physical lanes (R216). -/
def Block.effOf (b : Block) (l : Nat) : Nat := if b.ps.marble then l / 2 else l

/-- Marks a GRANT record that no longer fits `l` effective lanes (R146, R216, R224). -/
def ShapeRec.restale (l : Nat) (r : ShapeRec) : ShapeRec :=
  if r.grant && r.code != 0 && r.tag.grant l < r.ncols then { r with stale := true } else r

/-- Marks every record of the block. -/
def Block.restale (b : Block) (l : Nat) : Block := { b with h := b.h.map (ShapeRec.restale l) }

/-! ## Re-lay -/

/-- Re-lay with the row count changed alone (R148). -/
def Tile.relayRows (t : Tile) (r : ShapeRec) : Tile :=
  let have_ := t.rows + t.kept
  let total := if r.rows ≤ t.rows && r.dead then r.rows else Nat.max r.rows have_
  let es := padTo (.bits 0) (total * t.cols) t.elems
  let n := r.rows * t.cols
  { t with
    rows := r.rows, kept := total - r.rows,
    elems := t.tag.keepPoison (es.take n) ++ es.drop n,
    scales := if t.tag.narrow then padTo 0 (total * blocksOf t.cols) t.scales else [],
    valid := if r.rows ≤ t.rows then Nat.min t.valid n else n,
    dirty := if r.rows ≤ t.rows then t.dirty else allDirty,
    progress := r.rows }

/-- A row of a version under a new column count: elements beyond either are zero (R148). -/
def reCol (old new : Nat) (cs : List Cell) : List Cell :=
  let z : Cell := .same (.bits 0) (.num (.zero false))
  padTo z new (cs.take (Nat.min old new))

/-- Re-lay with the column count changed (R148): a new version. -/
def Tile.relayCols (t : Tile) (old r : ShapeRec) : Tile :=
  let cells := List.zipWith Cell.same (t.elements old) (t.vals old)
  let rows := (chunks t.rows old.ncols cells).map (reCol old.ncols r.ncols)
  let z : Cell := .same (.bits 0) (.num (.zero false))
  let all := padTo z r.size (rows.take r.rows).flatten
  let (es, sc) := r.tag.assemble r.ncols .rne false false all
  Tile.none.fresh r es sc

/-- Re-lay of a committed version when its record changes (R148). -/
def Tile.relay (t : Tile) (old r : ShapeRec) : Tile :=
  if old.code != r.code then Tile.none
  else if t.empty then t
  else if old.cols == r.cols then t.relayRows r
  else t.relayCols old r

/-- The rows that a re-lay takes (R148). -/
def Tile.relayCost (t : Tile) (old r : ShapeRec) (width : Nat) : Nat :=
  if old.code != r.code || t.empty || old.cols == r.cols then 0 else r.storage width

/-- The tiles that a re-lay under record `h` reads: those bound to it whose columns change (R148). -/
def Block.relaid (b : Block) (h : RecNo) (r : ShapeRec) : List TileNo :=
  ((List.range 32).map (BitVec.ofNat 5)).filter fun t =>
    (b.tile t).bound == .some h && (b.tile t).ver.relayCost b.h[h.toNat] r b.place.width != 0

/-- The storage rows that rewriting record `h` takes. -/
def Block.relayCost (b : Block) (h : RecNo) (r : ShapeRec) : Nat :=
  let old := b.h[h.toNat]
  (b.t.toList.map fun t =>
    if t.bound = .some h then t.ver.relayCost old r b.place.width else 0).sum

/-- Rewrites record `h` and re-lays every tile bound to it. -/
def Block.rewrite (b : Block) (h : RecNo) (r : ShapeRec) : Block :=
  let old := b.h[h.toNat]
  let f (t : TileReg) : TileReg := if t.bound = .some h then { t with ver := t.ver.relay old r } else t
  { b with t := b.t.map f, h := b.h.set h.toNat r }

/-! ## The instructions -/

/-- The operand checks of SHAPE and SHAPEQ: the request and the descriptor (R146). -/
def shapeOperands (a b : Reg) : M (Nat × Word) := do
  let k ← getBlk
  if (k.rs a).poison.isSome || (k.rs b).poison.isSome then raise .poisonShape
  let req := (k.sv a).toNat
  if (req != 0 && !shares.contains req) || !descriptorOk (k.sv b) then raise .shapeDesc
  return (req, k.sv b)

/-- The grant of a descriptor's tag on `l` physical lanes of the block (R146). -/
def Block.grantOf (b : Block) (desc : Word) (l : Nat) : Nat :=
  (Tag.ofCode (desc.extractLsb' 0 5).toNat).grant (b.effOf l)

/-- SHAPE (R146). -/
def shape (d a b : Reg) (h : RecNo) : M Unit := do
  let (req, desc) ← shapeOperands a b
  let dev ← getDev
  let k := dev.blk
  let l := dev.negotiate req
  let g := k.grantOf desc l
  let r := recordOf desc g
  needRows (k.relayCost h r)
  meetRows (k.relaid h r)
  let k := (← getBlk)
  let k' := { k.rewrite h r with place := dev.moved k.place l }
  let k' := if l = k.place.share then k' else k'.restale (k.effOf l)
  setBlk (k'.ws d (SReg.plain (BitVec.ofNat 64 g)))
  if l != k.place.share then modify fun w => w.mirror k.place.core

/-- SHAPE (R146). -/
def execShape (d a b : Reg) (h : RecNo) (s : State) : Host.Outcome State Fault Refusal :=
  run s true (shape d a b h)

/-- SHAPEQ: what SHAPE would grant (R146). -/
def shapeq (d a b : Reg) : M Unit := do
  let (req, desc) ← shapeOperands a b
  let dev ← getDev
  let k := dev.blk
  setBlk (k.ws d (SReg.plain (BitVec.ofNat 64 (k.grantOf desc (dev.negotiate req)))))

/-- SHAPEQ (R146). -/
def execShapeq (d a b : Reg) (s : State) : Host.Outcome State Fault Refusal :=
  run s true (shapeq d a b)

/-- TBIND: binds and empties; a record with tag 0 traps with TYPE_STATE (R145). -/
def tbind (d : TileNo) (h : RecNo) : M Unit := do
  let k ← getBlk
  if k.h[h.toNat].code == 0 then raise .typeState
  setBlk (k.setTile d { k.tile d with bound := some h, ver := Tile.none })

/-- TBIND (R145). -/
def execTbind (d : TileNo) (h : RecNo) (s : State) : Host.Outcome State Fault Refusal :=
  run s true (tbind d h)

/-- TFREE: unbinds and clears the full/empty bit; nothing where the tile is unbound (R145). -/
def tfree (d : TileNo) : M Unit := do
  let k ← getBlk
  if (k.tile d).bound.isSome then setBlk (k.setTile d TileReg.reset)

/-- TFREE (R145). -/
def execTfree (d : TileNo) (s : State) : Host.Outcome State Fault Refusal :=
  run s true (tfree d)

end Sys2Proof.Machine
end

