-- ==== Sys2Proof/Machine/Queues.lean ====
section
/-! DEFINITION. FENCE, SJOIN, SEND, RECV, RECVT, EVWAIT, QFILL, QPOP and the fill operations (R296, R297, R336 to
R343). -/
namespace Sys2Proof.Machine

/-! ## FENCE and SJOIN -/

/-- FENCE (R296): the release part waits until every older write is performed and acknowledged; older reads
have been performed. One that waits is committed before its block is saved (R306). -/
def fence (o : Os) : M Unit := do
  if releases o then
    modifyBlk fun k => { k with fencing := true }
    drainAcked

/-- FENCE (R296). -/
def execFence (o : Os) (s : State) : Host.Outcome State Fault Refusal :=
  run s true (fence o)

/-- SJOIN (R297): it commits at once; younger writes stand behind its mark. -/
def execSjoin (s : State) : Host.Outcome State Fault Refusal :=
  run s true (enqueueMark false)

/-! ## SEND, RECV, RECVT -/

/-- The version that SEND delivers (R337): its shape, without rows that KEEP holds. -/
def Tile.sent (t : Tile) (r : ShapeRec) : Tile :=
  { t with tag := r.tag, rows := r.rows, cols := r.ncols, kept := 0,
           elems := if t.empty then [] else t.elems.take r.size,
           scales := if t.empty then [] else t.scales.take (r.rows * blocksOf r.ncols) }

/-- The receiver can take a transfer into tile `t` (R337). -/
def Dev.canReceive (d : Dev) (k : BlockKey) (t : TileNo) (v : Tile) : Bool :=
  match d.find k with
  | none => false
  | some b => b.resident && b.run != .saving && (b.tile t).inbox.isNone && b.fits (v.storage b.place.width) &&
      d.blocks.all fun x => match x.xfer with
        | some y => !(y.dest == k && y.tile == t)
        | none => true

/-- The member of the block's gang (R31, R337). -/
def BlockId.memberKey (b : BlockId) (m : Nat) : BlockKey :=
  { lid := b.key.lid, lin := b.gang * b.gangSize + m }

/-- The receiver's rows for a version that is on its way (R337). -/
def Dev.awaitRows (d : Dev) (k : BlockKey) (t : TileNo) (v : Tile) : Dev :=
  match d.find k with
  | none => d
  | some b => d.put (b.setTile t { b.tile t with coming := v.storage b.place.width })

/-- SEND (R337): it waits in READY, begins its transfer, and commits when the transfer arrives. -/
def send (d a : TileNo) (b : Reg) : M Unit := do
  let r ← bound a
  freshRecs [r]
  let k ← getBlk
  let x := k.rs b
  if x.poison.isSome then raise .poisonAddr
  if k.id.gangSize ≤ x.val.toNat then raise .gangIndex
  let dest := k.id.memberKey x.val.toNat
  let v := (k.tile a).ver.sent r
  if k.xfer.isNone && (← getDev).canReceive dest d v then do
    modifyBlk fun k => { k with xfer := some { dest := dest, tile := d, ver := v } }
    modifyDev fun dev => dev.awaitRows dest d v
  stay

/-- SEND (R337). -/
def execSend (d a : TileNo) (b : Reg) (s : State) : Host.Outcome State Fault Refusal :=
  run s true (send d a b)

/-- TRANSFER_ARRIVAL for the block that issues (R337): the receiver's bit is set full and SEND commits; a
receiver that has retired takes nothing. -/
def Work.arrive (w : Work) : Work :=
  let k := w.dev.blk
  match k.xfer with
  | none => w
  | some x =>
    let dev := w.dev.commit true { k with xfer := none } (k.pc + 4)
    match dev.find x.dest with
    | none => { w with dev := dev }
    | some b =>
      if b.resident then
        { w with dev := dev.put (b.setTile x.tile { b.tile x.tile with inbox := some x.ver, coming := 0 }) }
      else { w with dev := dev }

/-- TRANSFER_ARRIVAL (R337). -/
def execTransferArrival (k : BlockKey) (s : State) : Host.Outcome State Fault Refusal :=
  event s fun w => w.onBlock k Work.arrive

/-- The arrived version becomes the committed version (R338). -/
def takeInbox (d : TileNo) (r : ShapeRec) (v : Tile) : M Unit := do
  if v.tag != r.tag || v.rows != r.rows || v.cols != r.ncols then raise .shapeMismatch
  modifyBlk fun b =>
    let old := (b.tile d).ver
    let new := if v.empty then (if old.kept = 0 then Tile.none else old.fresh r (List.replicate r.size (.bits 0))
        (if r.tag.narrow then List.replicate (r.rows * blocksOf r.ncols) 0 else []))
      else old.fresh r v.elems v.scales
    b.setTile d { b.tile d with ver := new, inbox := .none }
  modify fun w => w.takeCells d none

/-- RECV (R338). -/
def recv (d : TileNo) : M Unit := do
  let r ← bound d
  freshRecs [r]
  match ((← getBlk).tile d).inbox with
  | .some v => takeInbox d r v
  | .none => stopWith (.wait (.tile d))

/-- RECV (R338). -/
def execRecv (d : TileNo) (s : State) : Host.Outcome State Fault Refusal :=
  run s true (recv d)

/-- RECVT (R338): a limit of 0 tests once; the limit counts from the issue. -/
def recvt (d : TileNo) (b : Reg) (p : PredReg) : M Unit := do
  let r ← bound d
  freshRecs [r]
  let k ← getBlk
  let x := k.rs b
  if x.poison.isSome then raise .poisonAddr
  if x.val.extractLsb' 32 32 != 0 then raise .sysState
  let now := (← getDev).cycle k.place.core
  let limit := k.recvtUntil.getD (now + x.val.toNat)
  match (k.tile d).inbox with
  | .some v => do
    takeInbox d r v
    modifyBlk fun k => { k.wp p (PReg.plain true) with recvtUntil := none }
  | .none =>
    if limit ≤ now then modifyBlk fun k => { k.wp p (PReg.plain false) with recvtUntil := none }
    else do
      modifyBlk fun k => { k with recvtUntil := some limit }
      stopWith (.wait (.tileLimit d limit p))

/-- RECVT (R338). -/
def execRecvt (d : TileNo) (b : Reg) (p : PredReg) (s : State) : Host.Outcome State Fault Refusal :=
  run s true (recvt d b p)

/-- RECVT_TIMEOUT for the block that issues (R338, R347): an arrival wins. -/
def Work.recvtExpire (w : Work) : Work :=
  let k := w.dev.blk
  match k.run, k.wait with
  | .waiting, .tileLimit t limit p =>
    if limit ≤ w.dev.cycle k.place.core && (k.tile t).inbox.isNone then
      let b := { k.wp p (PReg.plain false) with run := .ready, wait := .none, recvtUntil := none }
      { w with dev := w.dev.commit true b (k.pc + 4) }
    else w
  | _, _ => w

/-- RECVT_TIMEOUT (R338). -/
def execRecvtTimeout (k : BlockKey) (s : State) : Host.Outcome State Fault Refusal :=
  event s fun w => w.onBlock k Work.recvtExpire

/-! ## EVWAIT -/

/-- EVWAIT (R339). -/
def evwait (d a b : Reg) (o : Os) : M Unit := do
  let k ← getBlk
  if (k.rs a).poison.isSome || (k.rs b).poison.isSome then raise .poisonAddr
  let va := (k.sv a).toNat
  if va % 8 != 0 then raise .addrAlign
  if (k.sv b).msb then raise .sysState
  gate
  let (pa, l) ← reachScalar va .read
  orderRead o l.strict [lineOf pa]
  let line ← readyAt pa
  modify fun w => w.scalarL2 line false .plain
  if ← lineIsBad line then raise .poisonBranch
  let v ← readNat pa 8
  dropReads
  if 2 ^ 63 ≤ v || (k.sv b).toNat ≤ v then
    modifyBlk fun k => k.ws d (SReg.plain (BitVec.ofNat 64 v))
  else stopWith (.wait (.word pa v))

/-- EVWAIT (R339). -/
def execEvwait (d a b : Reg) (o : Os) (s : State) : Host.Outcome State Fault Refusal :=
  run s true (evwait d a b o)

/-! ## Stream queues -/

/-- The shape of a stream queue's entries (R340). -/
def StreamQueue.shapeRec (q : StreamQueue) : ShapeRec := recordOf q.shape 0

/-- The descriptor's bytes are legal (R340, R341): a valid FIXED shape, a depth of 1 to 8. -/
def streamDescOk (bs : List Byte) : Bool :=
  let shape : Word := BitVec.ofNat 64 (field bs 0 8)
  let depth := field bs 17 1
  descriptorOk shape && !shape.getLsbD 5 && field bs 16 1 < 4 && 1 ≤ depth && depth ≤ 8 && zeros bs 18 14

/-- QFILL (R341). -/
def qfill (a b : Reg) (c : PairNo) (s : BitVec 3) : M Unit := do
  let (desc, src, n, cwVa) ← engineOperands a b c
  let cw ← completionWord cwVa
  let va := desc.toNat
  if va % 32 != 0 then raise .queueInvalid
  let bs ← match ← readRecord va 32 with
    | some bs => pure bs
    | none => raise .queueInvalid
  let k ← getBlk
  let qn := field bs 16 1
  let old := k.queue qn
  if !streamDescOk bs || (old.st != .idle && old.st != .done) || 2 ^ 32 ≤ n.toNat then raise .queueInvalid
  let shape : Word := BitVec.ofNat 64 (field bs 0 8)
  let stride : Word := BitVec.ofNat 64 (field bs 8 8)
  let r := recordOf shape 0
  let unit := r.tag.unit
  if src.toNat % unit != 0 || (1 < n.toNat && stride.toNat % unit != 0) then raise .addrAlign
  let depth := field bs 17 1
  if !(k.setQueue qn StreamQueue.reset).fits (depth * r.storage k.place.width) then raise .tileSpace
  match (← getDev).pickEngine k.place.core with
  | none => stay
  | some e => do
    drainAcked
    dropReads
    let q : StreamQueue :=
      { StreamQueue.reset with
        st := .filling, desc := desc, src := src, count := n.toNat, shape := shape, stride := stride,
        depth := depth, cw := cw, cwVa := cwVa, scope := s.toNat, engine := e, pc := k.pc }
    modifyBlk fun k => k.setQueue qn q

/-- QFILL (R341). -/
def execQfill (a b : Reg) (c : PairNo) (sc : BitVec 3) (s : State) : Host.Outcome State Fault Refusal :=
  run s true (qfill a b c sc)

/-- QPOP (R342, R343). -/
def qpop (d : TileNo) (a : Reg) : M Unit := do
  let r ← bound d
  freshRecs [r]
  let k ← getBlk
  let x := k.rs a
  if x.poison.isSome then raise .poisonAddr
  let n := x.val.toNat
  if 4 ≤ n then raise .queueInvalid
  let q := k.queue n
  if q.st == .idle || q.popped == q.count then raise .queueInvalid
  let e := q.shapeRec
  if e.tag != r.tag || !e.sameShape r then raise .shapeMismatch
  match q.slots with
  | v :: rest => do
    needRows (r.storage k.place.width)
    modifyBlk fun k =>
      let old := (k.tile d).ver
      (k.setVer d (old.fresh r v.elems v.scales)).setQueue n { q with slots := rest, popped := q.popped + 1 }
    modify fun w => w.takeCells d (some n)
  | [] =>
    if q.st == .abandoned then
      stopWith (.trap .queueInvalid 0 0 (some (fltInfo d q.row q.col false)))
    else stopWith (.wait (.entry n))

/-- QPOP (R342). -/
def execQpop (d : TileNo) (a : Reg) (s : State) : Host.Outcome State Fault Refusal :=
  run s true (qpop d a)

/-! ## Fill operations -/

/-- The agent of a fill. -/
def fillKey (k : BlockKey) (q : Nat) : BlockKey := { lid := 2 ^ 65 + k.lid, lin := 4 * k.lin + q }

/-- The block that stands for the fill of queue `n`. -/
def Block.fillAgent (b : Block) (n : Nat) (q : StreamQueue) : Block :=
  { agentBlock 0 b.id b.place.core b.ps.pl q.pc with id := { b.id with key := fillKey b.id.key n } }

/-- How the fill of one entry ended. -/
inductive Filled where
  | entry (t : Tile) (crumbs : List (Nat × Crumb))
  | fault (elem va : Nat)
  | refused (elem va : Nat)
  deriving DecidableEq, Repr

/-- The poison of the entry's lines: one crumb-log entry for a line, 32 at most (R284, R341). -/
def fillCrumbs (who : BlockKey) (seen : List (Nat × Crumb)) (lines : List Nat) : M (List (Nat × Crumb)) := do
  let w ← get
  let b := w.dev.blk
  let bad := lines.filter fun l => (w.badLine l).isSome && (journalAt seen l).isNone
  let last := ((seen.getLast?).map (·.2)).getD { origin := 0, merged := false }
  let (cs, w') := w.lineCrumbs bad seen.length last b.pc true who b.id.ctx
  set w'
  return seen ++ cs

/-- The version that stored elements give, not converted (R183, R341). -/
def fillVersion (r : ShapeRec) (f : Mfmt) (es : List Loaded) : Tile :=
  let t := r.tag
  if t.narrow then
    let xs := es.map fun l => (storedElem l, storedScale l)
    let blocks := (chunks xs.length r.ncols xs).flatMap fun row => (chunks row.length 32 row).map poisonBlock
    Tile.none.fresh r (blocks.flatMap fun b => b.map (·.1)) (blocks.map fun b => ((b.head?).map (·.2)).getD 0)
  else
    let (xs, sc) := t.assemble r.ncols .rne false false (es.map (loadCell f t))
    Tile.none.fresh r xs sc

/-- Fills one entry (R341). -/
def fillEntry (who : BlockKey) (q : StreamQueue) : M Filled := do
  let r := q.shapeRec
  let f : Mfmt := { enc := r.tag, trail := false, rm := .rne, sat := false }
  let base := q.src.toNat + q.filled * q.stride.toNat
  let rb := r.tag.rowBytes r.ncols
  let xs := (List.range r.size).map fun e =>
    (e, f.source (wrap64 (base + e / r.ncols * rb)) r.ncols (e % r.ncols))
  let m ← reachPages (.copy q.engine) .read [] (xs.flatMap (·.2.pages))
  let bad (x : Nat × Source) : Bool :=
    x.2.pages.any fun p => match m.at p with
      | .ok _ l => l.strict
      | _ => true
  match xs.find? bad with
  | some (e, x) =>
    match m.faults x with
    | p :: _ => return .fault e (if pageOf x.va = p then x.va else p)
    | [] => return .refused e x.va
  | none => do
    let lines := m.allLines (← get) xs
    readyLines lines
    for l in lines do notePeerPoison l
    for l in lines do engineAccess l false
    let cs ← fillCrumbs who q.crumbs lines
    let es ← xs.mapM fun x => readSource f m cs (fun va => readByte (m.pa va)) x.2
    dropReads
    return .entry (fillVersion r f es) cs

/-- Abandons the fill of queue `n` of the block that issues (R343): the record, then +1 with bit 63. -/
def Work.abandonFill (w : Work) (n : Nat) (q : StreamQueue) (va : Word) (reason : Nat) : Work :=
  let b := w.dev.blk
  match w.tryRec b.id.fn (abandonRec b.id va q.cwVa reason) with
  | none => w
  | some w =>
    ({ w with dev := { w.dev with blk := w.dev.blk.setQueue n { q with st := .abandoned, batch := none } } }).owe b.id.key.lid
      q.cw

/-- The fill's fault (R343): its element, and a batch; at a full queue it stays where it was (R345). -/
def Work.faultFill (w : Work) (n : Nat) (q : StreamQueue) (e va : Nat) : Work :=
  let b := w.dev.blk
  match w.sendBatch b.id.fn (.fill b.id.key n) (engineBatch b.id q.cwVa va false) with
  | none => w
  | some (id, w') =>
    let r := q.shapeRec
    let q := { q with st := .faulted, row := e / r.ncols, col := e % r.ncols, va := BitVec.ofNat 64 va,
                      batch := some id }
    { w' with dev := { w'.dev with blk := w'.dev.blk.setQueue n q } }

/-- One entry of a fill that is filling, or its completion (R341). -/
def Work.fillStep (w : Work) (n : Nat) (q : StreamQueue) : Work :=
  if q.count ≤ q.filled then
    let (put, w) := w.bump q.cw false
    if put then { w with dev := { w.dev with blk := w.dev.blk.setQueue n { q with st := .done } } } else w
  else if q.popped + q.depth ≤ q.filled then w
  else
    match w.actAs (w.dev.blk.fillAgent n q) (fillEntry w.dev.blk.id.key q) with
    | (none, w) => w
    | (some (.entry t cs), w) =>
      let q := { q with filled := q.filled + 1, slots := q.slots ++ [t], crumbs := cs }
      { w with dev := { w.dev with blk := w.dev.blk.setQueue n q } }
    | (some (.fault e va), w) => w.faultFill n q e va
    | (some (.refused e va), w) =>
      w.abandonFill n { q with row := e / q.shapeRec.ncols, col := e % q.shapeRec.ncols } (BitVec.ofNat 64 va) 3

/-- FILL_ENTRY for the block that issues (R341, R343). -/
def Work.fill (w : Work) (n : Nat) : Work :=
  let q := w.dev.blk.queue n
  match q.st with
  | .idle | .abandoned | .done => w
  | .filling => w.fillStep n q
  | .faulted =>
    match q.batch with
    | none => w.fillStep n { q with st := .filling }
    | some id =>
      match w.dev.answer id with
      | none => w
      | some a =>
        match a.reason with
        | none =>
          let q := { q with st := .filling, batch := none }
          { w with dev := { w.dev.closeBatch id with blk := w.dev.blk.setQueue n q } }
        | some r =>
          let w' := w.abandonFill n q q.va r
          if (w'.dev.blk.queue n).st == .abandoned then { w' with dev := w'.dev.closeBatch id } else w'

/-- FILL_ENTRY (R341). -/
def execFillEntry (k : BlockKey) (q : BitVec 2) (s : State) : Host.Outcome State Fault Refusal :=
  event s fun w => w.onBlock k fun w => w.fill q.toNat

end Sys2Proof.Machine
end

