-- ==== Sys2Proof/Machine/Graphs.lean ====
section
/-! DEFINITION. Strudel graphs: GNODE, GLINK, GSUBMIT and the walker (R361 to R364, R369, R370). -/
namespace Sys2Proof.Machine

/-! ## Nodes -/

/-- A graph node as its 128 bytes give it (R361); `clean` says that its reserved bytes are zero (R8). -/
structure Node where
  kind : Nat
  state : Nat
  clean : Bool
  succs : Nat
  preds : Nat
  remaining : Nat
  p0 : Nat
  p1 : Nat
  p2 : Nat
  next : List Nat
  deriving DecidableEq, Repr

def node (bs : List Byte) : Node :=
  { kind := field bs 0 1 % 16, state := field bs 0 1 / 16, clean := zeros bs 2 2 && zeros bs 12 4,
    succs := field bs 1 1, preds := field bs 4 4,
    remaining := field bs 8 4, p0 := field bs 16 8, p1 := field bs 24 8, p2 := field bs 32 8,
    next := (List.range (field bs 1 1)).map fun i => field bs (64 + 8 * i) 8 }

/-- The kinds of R361. -/
def nodeKindOk (k : Nat) : Bool := 1 ≤ k && k ≤ 6

/-- The node is submitted or running (R362); log entry 96 for states that R361 does not name. -/
def Node.busy (n : Node) : Bool := n.state == 1 || n.state == 2

/-- The node's record is a legal one (R8, R361). DESIGN CHOICE, log entry 96: the payload words that R361 shows as zero are
not looked at, and a state of 5 to 15 is one that may be claimed. -/
def Node.ok (n : Node) : Bool := nodeKindOk n.kind && n.succs ≤ 8 && n.clean

/-! ## GNODE and GLINK -/

/-- Reads a node through the scalar path (R362): its address, its page, its bytes; a poisoned line raises
GRAPH_INVALID. -/
def readNode (va : Nat) : M (Nat × Leaf × List Byte) := do
  let (pa, l) ← reachScalar va .atomic
  match ← readRecord va 128 with
  | none => raise .graphInvalid
  | some bs => return (pa, l, bs)

/-- The 128 bytes that GNODE writes for a descriptor (R362). -/
def newNode (desc : List Byte) : List Byte :=
  desc.take 1 ++ List.replicate 15 0 ++ (desc.drop 8).take 24 ++ List.replicate 88 0

/-- A GNODE descriptor is legal (R362). -/
def nodeDescOk (bs : List Byte) : Bool := nodeKindOk (field bs 0 1) && zeros bs 1 7

/-- GNODE (R362). -/
def gnode (a b : Reg) : M Unit := do
  let k ← getBlk
  if (k.rs a).poison.isSome || (k.rs b).poison.isSome then raise .poisonAddr
  let va := (k.sv a).toNat
  let desc := (k.sv b).toNat
  if va % 128 != 0 || desc % 32 != 0 then raise .addrAlign
  gate
  let (pa, l, old) ← readNode va
  match ← readRecord desc 32 with
  | none => raise .graphInvalid
  | some bs =>
    if !nodeDescOk bs || (node old).busy then raise .graphInvalid
    commitWrites 0 l.order
      [{ slice := 16, line := lineOf pa, kind := .bytes (cellsFrom pa (newNode bs)), poison := false,
         bypass := false }]
    dropReads

/-- GNODE (R362). -/
def execGnode (a b : Reg) (s : State) : Host.Outcome State Fault Refusal :=
  run s true (gnode a b)

/-- Adds to a 4-byte word at its home (R362). -/
def addAt (pa v : Nat) : M Unit := modify fun w =>
  if regionOf pa = 3 then w.sendAtom pa 0 false v 0 false (some w.dev.blk.id.key) 16 none
  else w.performBytes (lineOf pa) (cellsFrom pa (natLe 4 (w.le pa 4 + v))) false 16

/-- GLINK (R362). -/
def glink (a b : Reg) : M Unit := do
  let k ← getBlk
  if (k.rs a).poison.isSome || (k.rs b).poison.isSome then raise .poisonAddr
  let va := (k.sv a).toNat
  let vb := (k.sv b).toNat
  if va % 128 != 0 || vb % 128 != 0 then raise .addrAlign
  gate
  let (pa, _, as) ← readNode va
  let (pb, _, bs) ← readNode vb
  let p := node as
  let q := node bs
  if p.busy || q.busy || !p.clean || !q.clean || 8 ≤ p.succs || q.preds == 2 ^ 32 - 1 then raise .graphInvalid
  drainAcked
  let w ← get
  let pa := w.redirect pa
  let pb := w.redirect pb
  if regionOf pa != 3 then claimLine (lineOf pa) true
  if regionOf pb != 3 then claimLine (lineOf pb) true
  performRun (pa + 64 + 8 * p.succs) (natLe 8 vb) false
  addAt pa 256
  addAt (pb + 4) 1

/-- GLINK (R362). -/
def execGlink (a b : Reg) (s : State) : Host.Outcome State Fault Refusal :=
  run s true (glink a b)

/-! ## GSUBMIT -/

/-- A node that the first pass has read: its virtual and physical addresses, and its bytes 3:0. -/
structure Reached where
  va : Nat
  pa : Nat
  word : Nat
  n : Node
  deriving DecidableEq, Repr

/-- The first pass (R363): every node reachable from those of `todo`, each read once. -/
def firstPass (fuel : Nat) (todo : List Nat) (got : List Reached) : M (List Reached) :=
  match fuel, todo with
  | _, [] => pure got
  | 0, _ => raise .graphInvalid
  | f + 1, va :: r =>
    if got.any (·.va == va) then firstPass f r got
    else if 65536 ≤ got.length then raise .graphInvalid
    else do
      let (pa, _, bs) ← readNode va
      let n := node bs
      if n.busy || !n.ok || n.next.any (· % 128 != 0) then raise .graphInvalid
      firstPass f (r ++ n.next) (got ++ [{ va := va, pa := pa, word := leNat (bs.take 4), n := n }])

/-- Edges into a node from nodes of the list (R363). -/
def edgesInto (xs : List Reached) (va : Nat) : Nat := (xs.map fun x => x.n.next.count va).sum

/-- Draining by P leaves nothing (R363): at each round the nodes whose edges all come from drained nodes go. -/
def drains (xs : List Reached) (fuel : Nat) (left : List Reached) : Bool :=
  match fuel with
  | 0 => left.isEmpty
  | f + 1 =>
    let stay := left.filter fun x => left.any fun y => y.n.next.contains x.va
    if stay.length = left.length then left.isEmpty else drains xs f stay

/-- The checks of the second pass (R363). -/
def graphOk (xs : List Reached) : Bool :=
  (xs.head?.map fun x => x.n.preds == 0).getD false &&
    (xs.all fun x => x.n.preds == edgesInto xs x.va) && drains xs xs.length xs

/-- Graphs that a cluster's walker holds (R363). -/
def Dev.graphsOf (d : Dev) (cl : Nat) : Nat := (d.eng.graphs.filter fun g => g.cluster == cl).length

/-- The claims of nodes in peers' memory that the block that issues has out, or that were answered (R363, R384). -/
def Dev.claims (d : Dev) : List Req :=
  d.link.reqs.filter fun r => r.kind == .atomic && r.by_ == some d.blk.id.key && r.elem.isSome

/-- The claims that found the word that the first pass had read, with that word's low byte. -/
def Dev.claimed (d : Dev) : List (Nat × Byte) :=
  let key := d.blk.id.key
  d.claims.filterMap fun r =>
    let read := d.link.reqs.find? fun q => q.kind == .read && q.by_ == some key && q.line == r.line
    match r.answer, read.bind (·.answer) with
    | some (bs, false), some (cs, _) => if bs.take 4 = cs.take 4 then some (r.line, cs.headD 0) else none
    | _, _ => none

/-- Every claimed state is restored (R363), and what was read of peers is forgotten. -/
def restoreClaims : M Unit := do
  let xs := (← getDev).claimed
  modify fun w => xs.foldl (fun w x => w.performBytes x.1 [(x.1 * 128, x.2)] false 16) w
  dropReads
  dropAtoms

/-- Claims the nodes of a graph that lie in peers' memory, each by an exchange of its first word (R363, R384). One that has
changed since the first pass, but to no state 1 or 2, makes both passes run again. -/
def claimFar (i : Nat) (xs : List Reached) : M Unit :=
  match xs with
  | [] => pure ()
  | x :: r => do
    let pa := (← get).redirect x.pa
    if regionOf pa = 3 then do
      let new : AtomArg := { bits := x.word - x.word % 256 + x.n.kind + 16, poison := false }
      match ← atomThere pa 32 9 i 16 new x.word with
      | none => raise .graphInvalid
      | some v =>
        if v != x.word then
          if v / 16 % 16 == 1 || v / 16 % 16 == 2 then raise .graphInvalid
          else do
            restoreClaims
            stay
    claimFar (i + 1) r

/-- The walker takes a graph: every node in state 1, remaining := P (R363). Two addresses of one node make its second claim
find state 1. -/
def claimNodes (xs : List Reached) : M Unit := do
  let w ← get
  let pas := xs.map fun x => w.redirect x.pa
  if pas.eraseDups.length != pas.length then raise .graphInvalid
  claimFar 0 xs
  for x in xs do
    let pa := (← get).redirect x.pa
    if regionOf pa != 3 then claimLine (lineOf pa) true
  for x in xs do
    let pa := (← get).redirect x.pa
    if regionOf pa != 3 then performRun pa (natLe 1 (x.n.kind + 16)) false
    performRun (pa + 8) (natLe 4 x.n.preds) false
  dropAtoms

/-- The core through whose unit a cluster's walker translates (R18). -/
def Dev.walkerCore (d : Dev) (cl : Nat) : Nat :=
  (((List.range 8).map (8 * cl + ·)).find? fun c => (d.core c).live).getD (8 * cl)

/-- A graph whose nodes are claimed, at its walker. -/
def Dev.addGraph (d : Dev) (xs : List Reached) (scope cw : Nat) (cwVa : Word) : Dev :=
  let k := d.blk
  let g : Graph :=
    { num := d.eng.nextOp, who := k.id, cluster := k.place.core / 8,
      nodes := xs.map fun x => { va := x.va, next := x.n.next, started := false, ended := false, bad := false },
      scope := scope, cw := cw, cwVa := cwVa, level := k.ps.pl, pc := k.pc, abandoned := false, batch := none }
  { d with eng := { d.eng with graphs := d.eng.graphs ++ [g], nextOp := g.num + 1 } }

/-- Both passes of GSUBMIT, and the walker's taking the graph (R363). -/
def submitGraph (root : Nat) (cwVa : Word) (sc : BitVec 3) : M Unit := do
  gate
  let (cw, _) ← reachScalar cwVa.toNat .atomic
  let xs ← firstPass (9 * 65536 + 1) [root] []
  if !graphOk xs then raise .graphInvalid
  drainAcked
  claimNodes xs
  modifyDev fun d => d.addGraph xs sc.toNat cw cwVa

/-- GSUBMIT (R362, R363): the cause for which it traps once its claims are restored, if any. -/
def gsubmit (a b : Reg) (sc : BitVec 3) : M (Option Cause) := do
  let d ← getDev
  let k := d.blk
  if (k.rs a).poison.isSome || (k.rs b).poison.isSome then raise .poisonAddr
  let root := (k.sv a).toNat
  let cwVa := k.sv b
  if root % 128 != 0 || cwVa.toNat % 8 != 0 then raise .addrAlign
  if 16 ≤ d.graphsOf (k.place.core / 8) || d.claims.any (·.answer.isNone) then stay
  else fun w =>
    match submitGraph root cwVa sc w with
    | .ok _ w => .ok none w
    | .error (.trap c code e flt) w =>
      if d.claimed = [] && w.dev.claimed = [] then .error (.trap c code e flt) w
      else (do restoreClaims; return some c : M (Option Cause)) w
    | .error e w => .error e w

/-- GSUBMIT (R363). -/
def execGsubmit (a b : Reg) (sc : BitVec 3) (s : State) : Host.Outcome State Fault Refusal :=
  match gsubmit a b sc (Work.start s) with
  | .ok none w => .next ({ w with dev := w.dev.commit true w.dev.blk (s.dev.blk.pc + 4) }.settle s)
  | .ok (some c) w => .next ((w.trapEntry c 0 0 none s.dev.blk.pc).settle s)
  | .error e w => .next ((stopped s e w).settle s)

/-! ## The walker -/

/-- A graph by its number. -/
def Dev.graph (d : Dev) (num : Nat) : Option Graph := d.eng.graphs.find? (·.num == num)

def Dev.onGraph (d : Dev) (num : Nat) (f : Graph → Graph) : Dev :=
  { d with eng := { d.eng with graphs := d.eng.graphs.map fun g => if g.num = num then f g else g } }

/-- Changes the `i`-th node of a graph. -/
def Graph.onNode (g : Graph) (i : Nat) (f : NodeRun → NodeRun) : Graph :=
  { g with nodes := (withIndex 0 g.nodes).map fun (j, n) => if j = i then f n else n }

/-- The key of a graph's walker. -/
def Graph.key (g : Graph) : BlockKey := { lid := 2 ^ 66 + g.num, lin := 0 }

/-- The block that stands for a graph's walker, in the core through which it now translates (R18). -/
def Dev.walkerBlock (d : Dev) (g : Graph) : Block :=
  { agentBlock 0 g.who (d.walkerCore g.cluster) g.level g.pc with id := { g.who with key := g.key } }

/-- The block that stands for the launch of a graph's node. -/
def Dev.launchBlock (d : Dev) (o : Op) : Block :=
  { o.agent with place := { Place.none with core := d.walkerCore (o.core / 8) } }

/-- An access of this device to a line of a peer is on its way: what an edge of a graph orders behind it waits (R298). -/
def Dev.lineBusy (d : Dev) (line : Nat) : Bool :=
  d.link.reqs.any fun r => (r.kind == .write || r.kind == .atomic) && r.line == line && r.answer.isNone

/-- Takes the answer to the walker's batch (R364): whether it may go on; a refused or unresolvable batch
abandons the graph. -/
def Work.graphAnswer (w : Work) (g : Graph) : Bool × Work :=
  match g.batch with
  | none => (true, w)
  | some id =>
    match w.dev.answer id with
    | none => (false, w)
    | some a =>
      let d := (w.dev.closeBatch id).onGraph g.num fun g =>
        { g with batch := none, abandoned := g.abandoned || a.reason.isSome }
      (true, { w with dev := d })

/-- The walker's fault (R344, R364). -/
def Work.graphFault (w : Work) (g : Graph) (va : Nat) : Work :=
  match w.sendBatch g.who.fn (.graph g.num) (engineBatch g.who g.cwVa va false) with
  | none => w
  | some (id, w') => { w' with dev := w'.dev.onGraph g.num fun g => { g with batch := some id } }

/-- Runs the walker on nodes: each is translated afresh; in an abandoned graph those that do not translate are
left out (R364). -/
def walkerRun {α : Type} (g : Graph) (vas : List Nat) (m : List (Option Nat) → M α) : M (Except Nat α) := do
  let pas ← vas.mapM fun va => do
    match ← reach .walker va .atomic with
    | .ok pa _ => return some ((← get).redirect pa)
    | _ => return none
  match if g.abandoned then none else (vas.zip pas).find? fun x => x.2.isNone with
  | some (va, _) => return .error va
  | none => do
    for p in pas do
      match p with
      | some pa => do
        if (← getDev).lineBusy (lineOf pa) then stay
        readyWrite pa false
      | none => pure ()
    return .ok (← m pas)

/-- The walker's turn on nodes of a graph, where `may` lets it, and what follows it. -/
def Work.walker {α : Type} (w : Work) (num : Nat) (may : Graph → Bool) (vas : List Nat)
    (m : List (Option Nat) → M α) (k : α → Work → Work) : Work :=
  match w.dev.graph num with
  | none => w
  | some g =>
    match w.graphAnswer g with
    | (false, w) => w
    | (true, w) =>
      match (w.dev.graph num).filter may with
      | none => w
      | some g =>
        match w.actAs (w.dev.walkerBlock g) (walkerRun g vas m) with
        | (none, w) => w
        | (some (.error va), w) => w.graphFault g va
        | (some (.ok x), w) => k x w

/-- Reads a ready node. -/
def nodeAt (pa : Option Nat) : M (Option Node) :=
  match pa with
  | none => return none
  | some pa => do
    let _ ← readyAt pa
    return some (node (← readRun pa 128))

/-- Writes bytes of a node where it could be translated. -/
def putNode (pa : Option Nat) (off : Nat) (bs : List Byte) : M Unit :=
  match pa with
  | none => pure ()
  | some pa => performRun (pa + off) bs false

/-- Nodes that a cluster's walker runs (R364). -/
def Dev.runningNodes (d : Dev) (cl : Nat) : Nat :=
  ((d.eng.graphs.filter fun g => g.cluster == cl).map fun g =>
    (g.nodes.filter fun n => n.started && !n.ended).length).sum

/-- The core and engine of a cluster with the fewest commands (R282, R364). -/
def Dev.pickCluster (d : Dev) (cl : Nat) : Option (Nat × Nat) :=
  let all := (List.range 8).flatMap fun i => [(8 * cl + i, 0), (8 * cl + i, 1)]
  (all.filter fun x => d.engineLoad x.1 x.2 < 32 && (d.core x.1).live).foldl (fun best x =>
    match best with
    | none => some x
    | some y => if d.engineLoad x.1 x.2 < d.engineLoad y.1 y.2 then some x else some y) none

/-- The operation of a node (R361); a reason with its address where R283 or R285 refuses the payload. -/
def Node.work (n : Node) (desc : Option (List Byte)) : OpKind × Option (Nat × Nat) :=
  let w (x : Nat) : Word := BitVec.ofNat 64 x
  match n.kind with
  | 1 => (.copy (w n.p0) (w n.p1) n.p2 [], if 2 ^ 40 ≤ n.p2 then some (2, n.p0) else none)
  | 2 => (.zero (w n.p0) n.p2, if 2 ^ 40 ≤ n.p2 then some (2, n.p0) else none)
  | 3 =>
    match desc.bind fun bs => gatherKind (w n.p0) bs n.p2 with
    | some k => (k, if 2 ^ 32 ≤ n.p2 then some (2, n.p1) else none)
    | none => (.zero 0 0, some (2, n.p1))
  | _ => (.launch (w n.p0) (w n.p1) (n.kind == 4) none, if n.p0 % 64 != 0 then some (2, n.p0) else none)

/-- What NODE_START found. -/
inductive Started where
  | no
  | yes (n : Node) (desc : Option (List Byte))
  | fault (va : Nat)
  deriving DecidableEq, Repr

/-- Reads a COPYG node's descriptor in the submitter's space (R361, R364). -/
def nodeDesc (va : Nat) (k : Option (List Byte) → M Started) : M Started := do
  match ← reach .walker va .read with
  | .fault => return .fault va
  | .breach => k none
  | .ok pa _ =>
    let line ← readyAt pa
    if va % 128 + 32 ≤ 128 && !(← lineIsBad line) then
      let bs ← readRun pa 32
      k (some bs)
    else
      match ← reach .walker (va / 128 * 128 + 128) .read with
      | .fault => return .fault (va / 128 * 128 + 128)
      | .breach => k none
      | .ok pb _ =>
        let next ← readyAt pb
        if (← lineIsBad line) || (← lineIsBad next) then k none
        else
          let as ← readRun pa (128 - va % 128)
          let bs ← readRun pb (32 - (128 - va % 128))
          k (some (as ++ bs))

/-- The start of a node whose remaining count is 0: it takes state 2 (R364). -/
def startNode (pas : List (Option Nat)) (room : Bool) : M Started := do
  let pa := (pas.head?).join
  match ← nodeAt pa with
  | none => return .no
  | some n =>
    if n.remaining != 0 || (n.kind ≤ 3 && !room) then return .no
    else
      let go (desc : Option (List Byte)) : M Started := do
        dropReads
        putNode pa 0 (natLe 1 (n.kind + 32))
        return .yes n desc
      if n.kind = 3 then nodeDesc n.p1 go else go none

/-- NODE_START (R364): node number `i` of the graph in the order of its first pass. -/
def Work.nodeStart (w : Work) (num i : Nat) : Work :=
  match w.dev.graph num with
  | none => w
  | some g =>
    match g.nodes[i]? with
    | none => w
    | some r =>
      if r.started || r.ended || 64 ≤ w.dev.runningNodes g.cluster then w
      else
        let engine := w.dev.pickCluster g.cluster
        w.walker num (fun g => !g.abandoned) [r.va] (fun pas => startNode pas engine.isSome) fun x w =>
          match x with
          | .no => w
          | .fault va => w.graphFault g va
          | .yes n desc =>
            let d := w.dev.onGraph num fun g => g.onNode i fun r => { r with started := true }
            if n.kind = 6 then { w with dev := d }
            else
              let (kind, bad) := n.work desc
              let (core, e) := if n.kind ≤ 3 then engine.getD (8 * g.cluster, 0) else (8 * g.cluster, 2)
              let o : Op :=
                { num := d.eng.nextOp, who := g.who, core := core, engine := e, kind := kind, done := 0,
                  cw := g.cw, cwVa := g.cwVa, scope := g.scope, level := g.level, pc := g.pc, batch := none,
                  onePage := false, va := BitVec.ofNat 64 ((bad.map (·.2)).getD 0), bad := bad.map (·.1),
                  crumbs := [], node := some (num, i) }
              { w with dev := { d with eng := { d.eng with ops := d.eng.ops ++ [o],
                                                           nextOp := o.num + 1 } } }

/-- The operation of a node. -/
def Dev.nodeOp (d : Dev) (num i : Nat) : Option Op := d.eng.ops.find? (·.node == some (num, i))

/-! ## Compute and launch nodes -/

/-- How the launch of a node went (R361). -/
inductive Launched where
  | lid (n : Nat)
  | rejected
  | breach (va : Nat)
  | fault (va : Nat)
  deriving DecidableEq, Repr

/-- Reads `n` bytes of a record for a node, none where its line is poison. -/
def nodeRead (va n : Nat) (k : Option (List Byte) → M Launched) : M Launched := do
  match ← reach .walker va .read with
  | .fault => return .fault va
  | .breach => return .breach va
  | .ok pa _ =>
    let line ← readyAt pa
    if ← lineIsBad line then k none else k (some (← readRun pa n))

/-- Translates a word that a record names. -/
def nodeWord (va : Nat) (a : Access) (k : Option Nat → M Launched) : M Launched := do
  match wordNamed va with
  | none => k none
  | some va =>
    match ← reach .walker va a with
    | .fault => return .fault va
    | .breach => return .breach va
    | .ok pa _ => k (some pa)

/-- A compute or launch node enters the launch path as LAUNCH does (R329, R361, R364). -/
def Op.launchNode (o : Op) (record result : Word) (compute : Bool) : M Launched :=
  nodeRead record.toNat 64 fun rec_ =>
    let r := launchRec (rec_.getD [])
    let named := rec_.isSome && recordKind (rec_.getD []) == 1
    let header_ (k : Option (List Byte) → M Launched) : M Launched :=
      if named then nodeRead r.header 64 k else k none
    header_ fun hdr =>
      nodeWord (if named then r.done else 0) .atomic fun done =>
        nodeWord (if named then r.status else 0) .write fun status =>
          nodeWord result.toNat .write fun out => do
            if (← getDev).tableFull then stay
            else do
              dropReads
              claimNamed status
              claimNamed out
              let w ← get
              let code := match rec_ with
                | none => some 6
                | some bs => if named && hdr.isNone then some 6 else w.rejectCode bs hdr o.who.ctx
              match code with
              | some c => do
                modify fun w => (w.writeStatus status (rejected c)).writeStatus out (rejected c)
                return .rejected
              | none => do
                let old := ((w.dev.launch o.who.key.lid).map (·.cls)).getD 0
                let (lid, dev) := w.dev.accept r (header (hdr.getD [])) o.who.ctx o.who.fn (Nat.max r.cls old)
                  done (if compute then o.node else none)
                set { w with dev := dev }
                modify fun w => (w.writeStatus status lid).writeStatus out lid
                return .lid lid

/-- Lets a compute or launch node work on. -/
def Work.workLaunch (w : Work) (o : Op) (record result : Word) (compute : Bool) : Work :=
  match w.opAnswer o with
  | (false, w) => w
  | (true, w) =>
    match w.actAs (w.dev.launchBlock o) (o.launchNode record result compute) with
    | (none, w) => w
    | (some (.lid n), w) => { w with dev := w.dev.onOp o.num fun x =>
        { x with kind := .launch record result compute (some n), done := 1 } }
    | (some .rejected, w) => { w with dev := w.dev.spoilOp o.num 2 record }
    | (some (.breach va), w) => { w with dev := w.dev.spoilOp o.num 3 (BitVec.ofNat 64 va) }
    | (some (.fault va), w) => w.opBatch o va

/-- Lets the operation of a node work on: whether the node may end (R361). -/
def Work.workNode (w : Work) (o : Op) : Bool × Work :=
  match o.kind with
  | .launch record result compute lid =>
    match lid with
    | some n => (!compute || (w.dev.launch n).isNone, w)
    | none => (false, if o.bad.isSome then w else w.workLaunch o record result compute)
  | .copy .. | .zero .. | .gather .. | .move .. => w.workOp o.num

/-! ## Ends -/

/-- Writes a node's end (R364): its state and, where it is done, one less remaining for each edge. -/
def endNode (done : Bool) (pas : List (Option Nat)) : M Unit := do
  let all := pas.eraseDups
  let ns ← all.mapM nodeAt
  dropReads
  for (p, n) in all.zip ns do
    match n with
    | none => pure ()
    | some n => do
      let edges := (pas.drop 1).count p
      if edges != 0 then putNode p 8 (natLe 4 (n.remaining + 2 ^ 32 - edges))
      if p == (pas.head?).join then putNode p 0 (natLe 1 (n.kind + (if done then 48 else 64)))

/-- The node is over in its walker. -/
def Dev.nodeOver (d : Dev) (num i : Nat) (bad : Bool) : Dev :=
  let d := d.onGraph num fun g =>
    { g.onNode i (fun r => { r with ended := true, bad := bad }) with abandoned := g.abandoned || bad }
  { d with eng := { d.eng with ops := d.eng.ops.filter fun o => o.node != some (num, i) } }

/-- NODE_DONE (R364). -/
def Work.nodeDone (w : Work) (num i : Nat) : Work :=
  match w.dev.graph num with
  | none => w
  | some g =>
    match g.nodes[i]? with
    | none => w
    | some r =>
      if !r.started || r.ended then w
      else
        let (ok, w) := match w.dev.nodeOp num i with
          | none => (true, w)
          | some o => w.workNode o
        if ok then
          w.walker num (fun _ => true) (r.va :: r.next) (endNode true) fun _ w =>
            { w with dev := w.dev.nodeOver num i false }
        else w

/-- NODE_ABANDON (R282, R364): an ABANDON record, state 4; no further node starts. -/
def Work.nodeAbandon (w : Work) (num i : Nat) : Work :=
  match w.dev.graph num, w.dev.nodeOp num i with
  | some g, some o =>
    match o.bad, g.nodes[i]? with
    | some r, some n =>
      if !(w.dev.unacked (agentKey o.num)).isEmpty then w
      else
        w.walker num (fun _ => true) [n.va] (fun pas => do
          match (← get).tryRec o.who.fn (abandonRec o.who o.va o.cwVa r) with
          | none => stay
          | some w => do
            set w
            endNode false pas) fun _ w => { w with dev := w.dev.nodeOver num i true }
    | _, _ => w
  | _, _ => w

/-- The walker writes state 4 to the nodes that never started (R364). -/
def abandonNodes (pas : List (Option Nat)) : M Unit := do
  let ns ← pas.mapM nodeAt
  dropReads
  for (p, n) in pas.zip ns do
    match n with
    | none => pure ()
    | some n => putNode p 0 (natLe 1 (n.kind + 64))

/-- GRAPH_COMPLETION (R298, R364): nodes that never started take state 4, and once that is performed the completion word takes
+1. -/
def Work.graphCompletion (w : Work) (num : Nat) : Work :=
  match w.dev.graph num with
  | none => w
  | some g =>
    if g.nodes.any (fun n => n.started && !n.ended) || !(g.abandoned || g.nodes.all (·.ended)) then w
    else
      match (g.nodes.filter fun n => !n.ended).map (·.va) with
      | [] =>
        if (w.dev.unacked g.key).isEmpty then
          let (put, w) := w.bump g.cw g.abandoned
          if !put then w
          else { w with dev := { w.dev with eng := { w.dev.eng with
              graphs := w.dev.eng.graphs.filter (·.num != num) } } }
        else w
      | rest => w.walker num (fun _ => true) rest abandonNodes fun _ w =>
          { w with dev := w.dev.onGraph num fun g => { g with nodes := g.nodes.map fun n => { n with ended := true } } }

/-- NODE_START (R364). -/
def execNodeStart (g node : Nat) (s : State) : Host.Outcome State Fault Refusal :=
  event s fun w => w.nodeStart g node

/-- NODE_DONE (R364). -/
def execNodeDone (g node : Nat) (s : State) : Host.Outcome State Fault Refusal :=
  event s fun w => w.nodeDone g node

/-- NODE_ABANDON (R364). -/
def execNodeAbandon (g node : Nat) (s : State) : Host.Outcome State Fault Refusal :=
  event s fun w => w.nodeAbandon g node

/-- GRAPH_COMPLETION (R364). -/
def execGraphCompletion (g : Nat) (s : State) : Host.Outcome State Fault Refusal :=
  event s fun w => w.graphCompletion g

end Sys2Proof.Machine
end

