-- ==== Sys2Proof/Machine/Counters.lean ====
section
/-! DEFINITION. TLBINV, CNTR and CNTW (R355, R372 to R377). -/
namespace Sys2Proof.Machine

/-! ## TLBINV -/

/-- What a TLBINV names (R355). -/
inductive Scrap where
  | page (va asid : Nat)
  | asid (n : Nat)
  | all
  deriving DecidableEq, Repr

def Scrap.hit (x : Scrap) (asid : Nat) : Bool :=
  match x with
  | .page _ n | .asid n => asid == n
  | .all => true

def Scrap.covers (x : Scrap) (base size : Nat) : Bool :=
  match x with
  | .page va _ => base ≤ va && va < base + size
  | .asid _ | .all => true

/-- A completion word that an agent still owes lies on a page that goes (R282, R355). -/
def Scrap.owes (x : Scrap) (u : Uncore) (asid : Nat) (cwVa : Word) : Bool :=
  x.hit asid &&
    match x with
    | .page va _ => pageOf va == pageOf cwVa.toNat ||
        u.tlb.any fun e => x.hit e.asid && x.covers e.base e.leaf.size && inPage cwVa.toNat e.base e.leaf.size
    | .asid _ | .all => true

/-- Every unit may acknowledge (R355): the accesses that it translated under a removed entry are performed. -/
def Dev.scrapped (d : Dev) (x : Scrap) : Bool :=
  let gone := d.unc.tlb.filter fun e => x.hit e.asid && x.covers e.base e.leaf.size
  (d.blocks.all fun b => b.pend.all fun w => gone.all fun e => !inPage (w.line * 128) e.leaf.base e.leaf.size) &&
    (d.link.reqs.all fun r => r.answer.isSome || !(r.kind == .read || r.kind == .write || r.kind == .atomic) ||
      gone.all fun e => !inPage (r.line * 128) e.leaf.base e.leaf.size) &&
    (d.eng.ops.all fun o => o.node.isSome || !x.owes d.unc o.who.asid o.cwVa) &&
    (d.eng.graphs.all fun g => !x.owes d.unc g.who.asid g.cwVa) &&
    (d.eng.owed.all fun y => gone.all fun e => !inPage y.2 e.leaf.base e.leaf.size) &&
    (d.eng.fills.all fun y => !y.2.2.filling || gone.all fun e => !inPage y.2.2.cw e.leaf.base e.leaf.size) &&
    d.blocks.all fun b => b.queues.toList.all fun q =>
      !(q.filling && x.owes d.unc b.id.asid q.cwVa)

/-- TLBINV (R355): the named operands, and what goes; one that waits commits before its block is saved (R222). -/
def tlbinv (named : List SReg) (asid : Word) (x : Scrap) : M Unit := do
  let k ← getBlk
  if k.ps.pl == .user then raise .priv
  if named.any (·.poison.isSome) then raise .poisonAddr
  if asid.extractLsb' 16 48 != 0 then raise .sysState
  modifyBlk fun k => { k with fencing := true }
  drainAcked
  let d ← getDev
  if d.scrapped x then modifyDev fun (d : Dev) => { d with unc := d.unc.invalidate x.hit x.covers }
  else stay

/-- TLBINV.PAGE (R355). -/
def execTlbinvPage (a b : Reg) (s : State) : Host.Outcome State Fault Refusal :=
  let k := s.dev.blk
  run s true (tlbinv [k.rs a, k.rs b] (k.sv b) (.page (k.sv a).toNat (k.sv b).toNat))

/-- TLBINV.ASID (R355). -/
def execTlbinvAsid (b : Reg) (s : State) : Host.Outcome State Fault Refusal :=
  let k := s.dev.blk
  run s true (tlbinv [k.rs b] (k.sv b) (.asid (k.sv b).toNat))

/-- TLBINV.ALL (R355). -/
def execTlbinvAll (s : State) : Host.Outcome State Fault Refusal :=
  run s true (tlbinv [] 0 .all)

/-! ## CNTR and CNTW -/

/-- Counter `n` belongs to an L2 slice or a stack that is fenced or absent (R375). -/
def Dev.unitGone (d : Dev) (n : Nat) : Bool :=
  (0x200 ≤ n && n ≤ 0x2FF && !d.fw.slices.testBit (n - 0x200)) ||
    (0x300 ≤ n && n ≤ 0x317 && (d.stack (n - 0x300)).liveCount == 0) ||
    (0x320 ≤ n && n ≤ 0x337 && (d.stack (n - 0x320)).liveCount == 0)

/-- A counter of R375 as it reads. -/
def Dev.liveCounter (d : Dev) (n : Nat) : Word := if d.unitGone n then 0 else d.counter n

/-- The value of counter `n` for the block that issues (R377). -/
def Dev.readCounter (d : Dev) (n : Nat) : Word :=
  let b := d.blk
  let c := d.core b.place.core
  if n = 0 then BitVec.ofNat 64 (d.cycle b.place.core)
  else if n = 1 then ((d.launch b.id.key.lid).map (·.eleft)).getD 0
  else if n = 2 then ((d.launch b.id.key.lid).map (·.eused)).getD 0
  else if 0x10 ≤ n ∧ n ≤ 0x17 then c.pmc.toList.getD (n - 0x10) 0
  else if 0x18 ≤ n ∧ n ≤ 0x1F then c.pmsel.toList.getD (n - 0x18) 0
  else d.liveCounter n

/-- Writes counter `n` in its width (R376, R377). -/
def Dev.writeCounter (d : Dev) (n : Nat) (v : Word) : Dev :=
  let k := d.blk.place.core
  let c := d.core k
  if 0x10 ≤ n ∧ n ≤ 0x17 then
    d.setCore k { c with pmc := Vector.ofFn fun i => if i.val = n - 0x10 then v else c.pmc[i] }
  else if 0x18 ≤ n ∧ n ≤ 0x1F then
    d.setCore k { c with pmsel := Vector.ofFn fun i =>
      if i.val = n - 0x18 then v &&& 0x3FFFFF#64 else c.pmsel[i] }
  else if d.unitGone n then d
  else d.setCounter n v

/-- Whose counter it is: the core's own, or the device's. -/
def Dev.counterOwner (d : Dev) (n : Nat) : Nat := if 0x10 ≤ n ∧ n ≤ 0x1F then d.blk.place.core else Config.cores

/-- Writes a counter among the CNTWs of its clock: in ascending core number, then by age, the last one stands (R378). -/
def Dev.writeInTurn (d : Dev) (n : Nat) (v : Word) (age : Nat) : Dev :=
  let by_ := d.blk.place.core
  let o := d.counterOwner n
  let later := d.written.any fun x =>
    x.core == o && x.num == n && (by_ < x.by_ || (x.by_ == by_ && age < x.age))
  let d := if later then d else d.writeCounter n v
  { d with written := { core := o, num := n, by_ := by_, age := age } :: d.written }

/-- Commits a tile-side instruction that changes the device without memory. -/
def doneTile (s : State) (d : Dev) (b : Block) : Host.Outcome State Fault Refusal :=
  .next { s with dev := d.commit true b (s.dev.blk.pc + 4) }

/-- CNTR (R377): ILLEGAL, then PRIV (R53). -/
def execCntr (d : Reg) (n : BitVec 12) (s : State) : Host.Outcome State Fault Refusal :=
  let k := s.dev.blk
  match counterLevels n.toNat with
  | none => trapNow s .illegal
  | some (lv, _) =>
    if k.ps.pl.code < lv then trapNow s .priv
    else doneTile s s.dev (k.ws d (SReg.plain (s.dev.readCounter n.toNat)))

/-- CNTW (R377): it writes as it commits, and the written value stands over that clock's events (R378). -/
def execCntw (a : Reg) (n : BitVec 12) (s : State) : Host.Outcome State Fault Refusal :=
  let k := s.dev.blk
  match counterLevels n.toNat with
  | none | some (_, none) => trapNow s .illegal
  | some (_, some lv) =>
    if k.ps.pl.code < lv then trapNow s .priv
    else if (k.rs a).poison.isSome then trapNow s .poisonCtrl
    else .next { s with dev := (s.dev.commit true k (k.pc + 4)).writeInTurn n.toNat (k.sv a) k.lastIssue }

end Sys2Proof.Machine
end

