-- ==== Sys2Proof/Machine/Home.lean ====
section
/-! DEFINITION. The home of a line: requests of peers and of the host, one at a time for each line (R244, R245,
R350, R380, R384, R386, R430). -/
namespace Sys2Proof.Machine

/-! ## Answers -/

/-- Sends DATA with the line's bytes as the home reads them (R195, R384). -/
def Work.sendData (w : Work) (p tag line : Nat) : Work :=
  let bad := (w.badLine line).isSome
  let w := if bad then w.noteUpset line else w
  w.post { plainMsg .data p tag (line % 2 ^ 42) with poison := bad, data := w.bytes (line * 128) 128 } line

/-- Sends ACK (R386). -/
def Work.sendAck (w : Work) (p tag line : Nat) : Work := w.post (plainMsg .ack p tag (line % 2 ^ 42)) line

/-- The state lets its party write: E and M (R244, R386). -/
def writerState (st : Nat) : Bool := st == 1 || st == 2

/-- The home writes its line's state and party, which makes the line dirty (R244, R245); the copy of the other die goes where
a peer may write (R246). -/
def Work.setOwner (w : Work) (line st party : Nat) : Work :=
  let m := metaWith (w.homeMeta line) st party
  let w := w.putMeta line (if writerState st then m &&& 0x9FFF#16 else m)
  { w with dev := (if writerState st then w.dev.dropCopy line else w.dev).dirtyL2 line }

/-- An error-log record of the link (R386, R388): level 5, kind 1; its port is free. -/
def Work.logLink (w : Work) (pa : Nat) : Work :=
  let n := w.dev.fresh
  let w := { w with dev := { w.dev with fresh := n + 1 } }
  w.errLog 5 1 (Config.freeChoice n % 24) 0 pa 0 0

/-! ## Who may hold a line -/

/-- The coherence scope of the page of an address is DOMAIN (R350). -/
def Work.pageScope (w : Work) (pa : Nat) : Bool := w.onPage pa (·.domain)

/-- The line may be granted to peers (R243, R350, R380): a page of region 0 outside the host window whose coherence
scope is DOMAIN; a line that a peer holds or shares is on such a page. -/
def Work.grants (w : Work) (line : Nat) : Bool :=
  let pa := line * 128
  regionOf pa == 0 && !w.inWindow line && (metaState (w.homeMeta line) != 0 || w.pageScope pa)

/-- The metadata names `p` as M or O holder (R386). -/
def Work.holdsDirty (w : Work) (line p : Nat) : Bool :=
  let m := w.homeMeta line
  (metaState m == 2 || metaState m == 5) && metaParty m == p

/-- A request that its sender's own M or O state forbids (R430): DATA from DRAM with poison, state I, a record. -/
def Work.badRequest (w : Work) (line p tag : Nat) : Work :=
  (((w.setPoison line true).setOwner line 0 0).logLink (line * 128)).sendData p tag line

/-! ## Requests that are served at once -/

/-- RD_S at a line whose state allows it now (R386, R430): no message waits. DEDUCED, log entry 28: of the fields of
R384 the source ID is the one that can tell a holder for whom FWD_S asks, so it names the requester. -/
def Work.serveRdS (w : Work) (line p tag : Nat) : Work :=
  let m := w.homeMeta line
  let q := metaParty m
  let w := w.homeL2 line .plain
  match metaState m with
  | 0 => (w.setOwner line 1 p).sendData p tag line
  | 3 =>
    if q = p then w.sendData p tag line
    else (w.setOwner line 4 (groupOf q ||| groupOf p)).sendData p tag line
  | 4 => (w.setOwner line 4 (q ||| groupOf p)).sendData p tag line
  | st =>
    if q = p then (if st = 1 then w.sendData p tag line else w.badRequest line p tag)
    else
      let w := w.post { plainMsg .fwdS q tag (line % 2 ^ 42) with src := p } 0
      w.setOwner line 5 q

/-- WB (R386): the data of the M or O holder is written and the state becomes I; any other is discarded with a
record. -/
def Work.serveWb (w : Work) (line p tag : Nat) (data : List Byte) (poisoned : Bool) : Work :=
  if w.holdsDirty line p then
    let cells := (data.take 128).zipIdx.map fun x => ((line * 128 + x.2, x.1) : Host.Cell)
    ((w.performBytes line cells poisoned 0).setOwner line 0 0).sendAck p tag line
  else (w.logLink (line * 128)).sendAck p tag line

/-! ## Requests that wait for holders -/

/-- The bytes that a mask names, as cells of a line (R384, R386). -/
def maskedCells (line mask : Nat) (data : List Byte) : List Host.Cell :=
  (data.take 128).zipIdx.filterMap fun x =>
    if mask.testBit x.2 then some (line * 128 + x.2, x.1) else none

/-- The answer to an atomic of a peer: the old value, or poison (R384, R386). -/
def Work.sendOld (w : Work) (p tag line : Nat) (old : Option Nat) : Work :=
  w.post { plainMsg .atomRsp p tag (line % 2 ^ 42) with
    poison := old.isNone, data := natLe 8 (old.getD 0) ++ natLe 8 0 } line

/-- Performs an ATOM of a peer at its home (R281, R384). -/
def Work.serveAtom (w : Work) (line p tag op : Nat) (wide : Bool) (offset : Nat) (operand expected : Word)
    (poisoned : Bool) : Work :=
  let n := if wide then 64 else 32
  let f := if wide then Fmt.double else Fmt.single
  let x : AtomArg := { bits := operand.toNat % 2 ^ n, poison := poisoned }
  let ((old, _), w) := w.atomHere (line * 128 + offset % 128) n op f x (expected.toNat % 2 ^ n) .off
  let w := if old.isNone then w.noteUpset line else w
  (w.setOwner line 0 0).sendOld p tag line old

/-- The transaction answers nobody outside: one of this device, or of a line of another home. -/
def TxnKind.isLocal (k : TxnKind) : Bool :=
  match k with
  | .giveUp .. | .local_ => true
  | .rdS .. | .rdX .. | .wb .. | .ucRd .. | .ucWr .. | .atom .. | .hostRead | .hostWrite _ => false

/-- Where a holder gives a line up (R386): DATA with its copy for RECALL, INV_ACK for INV. -/
def Work.giveUp (w : Work) (line home tag : Nat) (pull : Bool) : Work :=
  let l := w.dev.link
  let away : List HeldLine := l.held.filter fun h => !(peerPa h.home h.line == line * 128)
  let w' := { w with dev := { w.dev with link := { l with held := away } } }
  match l.held.find? fun h => peerPa h.home h.line == line * 128 with
  | some h =>
    if pull then
      w'.post { plainMsg .data home tag h.line with poison := h.poison, data := h.data } h.line
    else w'.post (plainMsg .invAck home tag h.line) h.line
  | none => w'.post (plainMsg .invAck home tag (peerLine (line * 128))) (peerLine (line * 128))

/-- Serves a transaction whose line no peer holds in the way any more (R245, R386). -/
def Work.finishTxn (w : Work) (t : Txn) : Work :=
  let w := if t.kind.isLocal then w else w.homeL2 t.line .plain
  match t.kind with
  | .rdS p tag => w.serveRdS t.line p tag
  | .rdX p tag => (w.setOwner t.line 2 p).sendData p tag t.line
  | .wb p tag data bad => w.serveWb t.line p tag data bad
  | .ucRd p tag => w.sendData p tag t.line
  | .ucWr p tag mask data bad =>
    let cells := maskedCells t.line mask data
    ((if cells = [] then w else w.performBytes t.line cells bad 0).setOwner t.line 0 0).sendAck p tag t.line
  | .atom p tag op wide offset operand expected bad =>
    w.serveAtom t.line p tag op wide offset operand expected bad
  | .hostRead => { w with dev := w.dev.useDrop t.line }
  | .hostWrite cells => if cells = [] then w else (w.performBytes t.line cells false 0).setOwner t.line 0 0
  | .giveUp home tag pull => w.giveUp t.line home tag pull
  | .local_ => w

/-- A transaction writes its line (R245, R386). -/
def TxnKind.writes (k : TxnKind) : Bool :=
  match k with
  | .ucWr .. | .atom .. | .hostWrite _ | .rdX .. => true
  | .rdS .. | .wb .. | .ucRd .. | .hostRead | .giveUp .. | .local_ => false

/-- A transaction comes from a peer or this device, so that the host must drop its copy before a write
(R380). -/
def TxnKind.snoops (k : TxnKind) : Bool :=
  match k with
  | .ucWr .. | .atom .. | .wb .. => true
  | .rdS .. | .rdX .. | .ucRd .. | .hostRead | .hostWrite _ | .giveUp .. | .local_ => false

/-- A write-back, which the move of a page waits for (R286). -/
def TxnKind.isWb (k : TxnKind) : Bool :=
  match k with
  | .wb .. => true
  | .rdS .. | .rdX .. | .ucRd .. | .ucWr .. | .atom .. | .hostRead | .hostWrite _ | .giveUp .. | .local_ => false

/-- A line that no transaction, copy to a spare, move of its page or host copy blocks; the host is asked to drop its copy
(R240, R245, R286, R380). -/
def Work.lineFree (w : Work) (t : Txn) : Bool × Work :=
  if w.dev.link.txns.any (·.line == t.line) || w.onCopying t.line || (w.dev.stalled t.line && !t.kind.isWb) then (false, w)
  else if t.kind.snoops && !w.hostFree t.line then (false, w.snoopHost t.line)
  else (true, w)

/-- Recalls or invalidates what stands in the way, then serves (R245). -/
def Work.serveAfter (w : Work) (t : Txn) (write : Bool) : Work :=
  if w.remotes t.line write = [] then w.finishTxn t else w.startTxn t.line write t.kind

/-- A page whose scope grants nothing serves a reader uncached (R350). -/
def Work.serveUncached (w : Work) (line p tag : Nat) : Work :=
  w.serveAfter { line := line, kind := .ucRd p tag, tag := 0, awaiting := [], wbFrom := none } false

/-- Serves a request at a free line: at once, or once the holders that stand in its way have answered (R245, R386,
R430). -/
def Work.serve (w : Work) (t : Txn) : Work :=
  match t.kind with
  | .rdS p tag =>
    if w.grants t.line then w.serveRdS t.line p tag else w.serveUncached t.line p tag
  | .rdX p tag =>
    let m := w.homeMeta t.line
    if !w.grants t.line then w.serveUncached t.line p tag
    else if metaParty m = p && (metaState m == 1 || metaState m == 3) then
      (w.setOwner t.line 2 p).sendData p tag t.line
    else if w.holdsDirty t.line p then w.badRequest t.line p tag
    else w.serveAfter t true
  | .wb p tag data bad => w.serveWb t.line p tag data bad
  | k => w.serveAfter t k.writes

/-- Serves the queued requests whose lines are free, in arrival order for each line (R245), at the home that the line has
now (R286). -/
def Work.serveEach (w : Work) (ts : List Txn) (kept : List Txn) : Work :=
  match ts with
  | [] => { w with dev := { w.dev with link := { w.dev.link with queued := kept } } }
  | t :: r =>
    let t := { t with line := lineOf (w.redirect (t.line * 128)) }
    if kept.any (·.line == t.line) then w.serveEach r (kept ++ [t])
    else
      let (ok, w) := w.lineFree t
      if ok then (w.serve t).serveEach r kept else w.serveEach r (kept ++ [t])

def Work.serveQueued (w : Work) : Work :=
  if w.dev.link.queued = [] then w else w.serveEach w.dev.link.queued []

/-- A request arrives at its line's home, which a forwarding page has moved (R245, R286); it comes after this device's own
accesses of the clock. -/
def Work.request (w : Work) (line : Nat) (k : TxnKind) : Work :=
  let t : Txn := { line := lineOf (w.redirect (line * 128)), kind := k, tag := 0, awaiting := [], wbFrom := none }
  ({ w with dev := { w.dev with late := true, link :=
      { w.dev.link with queued := w.dev.link.queued ++ [t] } } }).serveQueued

/-! ## Answers of holders -/

/-- The line after its holders have let go: I (R245). -/
def Work.clearOwner (w : Work) (line : Nat) : Work :=
  if regionOf (line * 128) = 3 || metaState (w.homeMeta line) = 0 then w else w.setOwner line 0 0

/-- A party of a transaction has answered; with the last one the transaction is served, and what waits behind it
(R245). -/
def Work.answered (w : Work) (t : Txn) (p : Nat) : Work :=
  let rest := t.awaiting.filter (· != p)
  let l := w.dev.link
  if rest = [] then
    let w := { w with dev := { w.dev with link := { l with txns := l.txns.filter (· != t) } } }
    ((w.clearOwner t.line).finishTxn t).serveQueued
  else
    let put (x : Txn) : Txn :=
      if x = t then { t with awaiting := rest, wbFrom := if t.wbFrom = some p then none else t.wbFrom } else x
    { w with dev := { w.dev with link := { l with txns := l.txns.map put } } }

/-- The pending transaction that awaits `p` under a tag. -/
def Dev.txnOf (d : Dev) (p tag : Nat) : Option Txn :=
  d.link.txns.find? fun t => t.tag == tag && t.awaiting.contains p

/-- The request of this device that a tag names (R386). -/
def Dev.reqOf (d : Dev) (p tag : Nat) : Option Req :=
  d.link.reqs.find? fun r => r.tag == tag && r.peer == p && r.answer.isNone

/-- A request is complete: a write, and an atomic whose value neither an instruction nor a merge waits for, is forgotten;
any other keeps its answer. -/
def Dev.complete (d : Dev) (r : Req) (bs : List Byte) (bad : Bool) : Dev :=
  let l := d.link
  if r.kind = .write || (r.kind = .atomic && r.elem.isNone && r.expect.isNone) then
    { d with link := { l with reqs := l.reqs.filter (· != r) } }
  else
    { d with link := { l with reqs := l.reqs.map fun x =>
        if x = r then { r with answer := some (bs, bad) } else x } }

/-- The old value of an atomic stands in the low 8 bytes (R384). -/
def Work.takeDone (w : Work) (p tag : Nat) (bs : List Byte) (bad : Bool) : Work :=
  match w.dev.reqOf p tag with
  | some r => { w with dev := w.dev.complete r bs bad }
  | none => w

/-- DATA (R386): for a recall the home writes the line; for a read of this device it is the answer. -/
def Work.takeData (w : Work) (p tag : Nat) (bs : List Byte) (bad : Bool) : Work :=
  match w.dev.txnOf p tag with
  | none => w.takeDone p tag bs bad
  | some t =>
    let st := metaState (w.homeMeta t.line)
    let w := if heldState st && regionOf (t.line * 128) != 3 then
        let cells := (bs.take 128).zipIdx.map fun x => ((t.line * 128 + x.2, x.1) : Host.Cell)
        if cells = [] then w else w.performBytes t.line cells bad 0
      else w
    w.answered t p

/-- INV_ACK (R386): where the home awaited the data of an M or O holder, it waits for that holder's WB. -/
def Work.takeInvAck (w : Work) (p tag : Nat) : Work :=
  match w.dev.txnOf p tag with
  | some t =>
    if regionOf (t.line * 128) != 3 && w.holdsDirty t.line p then
      let put (x : Txn) : Txn := if x = t then { t with wbFrom := some p } else x
      { w with dev := { w.dev with link := { w.dev.link with txns := w.dev.link.txns.map put } } }
    else w.answered t p
  | none =>
    match w.dev.reqOf p tag with
    | some r =>
      if r.kind = .recall && w.holdsDirty r.line p then w else { w with dev := w.dev.complete r [] false }
    | none => w

/-- WB at a line with a pending transaction (R386): it crosses the home's RECALL. -/
def Work.crossWb (w : Work) (t : Txn) (p tag : Nat) (data : List Byte) (bad : Bool) : Work :=
  let w := w.serveWb t.line p tag data bad
  match w.dev.link.txns.find? (· == t) with
  | some t => if t.wbFrom = some p then w.answered t p else w
  | none => w

/-- WB arrives (R385, R386): it waits for no transaction; a COPYX that recalls the line takes it too. -/
def Work.takeWb (w : Work) (line p tag : Nat) (data : List Byte) (bad : Bool) : Work :=
  let line := lineOf (w.redirect (line * 128))
  let w := match w.dev.link.txns.find? (·.line == line) with
    | some t => w.crossWb t p tag data bad
    | none => w.request line (.wb p tag data bad)
  match w.dev.link.reqs.find? fun r => r.kind == .recall && r.line == line && r.peer == p && r.answer.isNone with
  | some r => { w with dev := w.dev.complete r [] false }
  | none => w

end Sys2Proof.Machine
end

