-- ==== Sys2Proof/Machine/Stores.lean ====
section
/-! DEFINITION. Tile stores, scatter, scatter-add and tile atomics (R150, R267 to R281). -/
namespace Sys2Proof.Machine

/-! ## Cells -/

/-- What an instruction writes into one byte: the bits of `mask`, for element `elem`. -/
structure StoreCell where
  pa : Nat
  byte : Byte
  mask : Byte
  poison : Bool
  elem : Nat
  deriving DecidableEq, Repr

/-- A later element's cell over an earlier one's in the same byte (R274). -/
def StoreCell.ov (new old : StoreCell) : StoreCell :=
  { new with byte := (old.byte &&& ~~~new.mask) ||| (new.byte &&& new.mask),
             mask := old.mask ||| new.mask,
             poison := new.poison || (old.poison && new.mask != 0xFF#8) }

/-- Puts a cell among cells of distinct bytes. -/
def putCell (c : StoreCell) (cs : List StoreCell) : List StoreCell :=
  match cs with
  | [] => [c]
  | x :: r => if x.pa = c.pa then c.ov x :: r else x :: putCell c r

/-- The bytes that cells in ascending element order leave, each byte once (R274). -/
def settleCells (cs : List StoreCell) : List StoreCell := cs.foldl (fun a c => putCell c a) []

/-- Adds a cell to the committed writes of an instruction: to one of the same slice and line, unless each
element stays apart (R267, R271). -/
def addPend (apart bypass : Bool) (slice : Nat) (c : StoreCell) (es : List (Nat × Pend)) :
    List (Nat × Pend) :=
  match es with
  | [] =>
    let kind := if c.mask = 0xFF#8 then PendKind.bytes [(c.pa, c.byte)]
                else PendKind.merge c.pa c.mask c.byte
    [(c.elem, { slice := slice, line := lineOf c.pa, kind := kind, poison := c.poison, bypass := bypass })]
  | (e, p) :: r =>
    match p.kind with
    | .bytes bs =>
      if p.slice = slice && p.line = lineOf c.pa && c.mask = 0xFF#8 && (!apart || e = c.elem) then
        (e, { p with kind := .bytes (bs ++ [(c.pa, c.byte)]), poison := p.poison || c.poison }) :: r
      else (e, p) :: addPend apart bypass slice c r
    | _ => (e, p) :: addPend apart bypass slice c r

/-- The committed writes of an instruction's cells. -/
def pendsOf (apart bypass : Bool) (slice : Nat → Nat) (cs : List StoreCell) : List Pend :=
  (cs.foldl (fun a c => addPend apart bypass (slice c.elem) c a) []).map (·.2)

/-! ## What a tile stores -/

/-- What an element writes: its pattern, and whether it is poison that is written. -/
structure Stored where
  pat : Nat
  poison : Bool
  deriving DecidableEq, Repr

/-- An element of a version in an encoding that is not narrow (R270, R273); `base` is the source's origin
word. -/
def storeElem (f : Mfmt) (t : Tag) (p : StorePolicy) (base : Nat) (e : Elem) (v : Val) : Stored :=
  match v.poison with
  | some c =>
    if p == .canon then { pat := f.enc.canon, poison := false }
    else { pat := f.enc.poisonBits base c, poison := true }
  | none =>
    match e with
    | .bits x =>
      if f.enc = t then { pat := x, poison := false }
      else match f.enc.packVal f.rm f.sat v with
        | .bits y => { pat := y, poison := false }
        | .poison _ => { pat := 0, poison := false }
    | .poison _ => { pat := 0, poison := false }

/-- Positions packed from bit 0 up (R87). -/
def packBits (w : Nat) (ps : List Nat) : Nat :=
  match ps with
  | [] => 0
  | p :: r => p % 2 ^ w + 2 ^ w * packBits w r

/-- A stored block: its scale, its positions' bytes as a number, and whether poison is written. -/
structure StoredBlock where
  scale : Nat
  body : Nat
  poison : Bool
  deriving DecidableEq, Repr

/-- One block of a stored row of a narrow encoding (R90, R95, R270, R273). -/
def storeBlock (f : Mfmt) (t : Tag) (p : StorePolicy) (scale : Nat) (es : List Elem)
    (vs : List Val) : StoredBlock :=
  let cells := vs.map fun v => Cell.new v false f.rm
  let (xs, sc) := if f.enc = t && !(vs.any fun v => v.poison.isSome) then (es, scale)
                  else f.enc.block f.rm none cells
  match mergeElems xs with
  | some c =>
    if p == .canon then { scale := 255, body := 0, poison := false }
    else { scale := 255, body := flagWord c, poison := true }
  | none =>
    { scale := sc, poison := false,
      body := packBits f.enc.width (xs.map fun e => match e with
        | .bits b => b
        | .poison _ => 0) }

/-- A version as a store reads it: elements, values, block scales. -/
structure StoreTile where
  rec_ : ShapeRec
  elems : Array Elem
  vals : Array Val
  scales : Array Nat
  base : Nat

def Block.storeTile (b : Block) (d : TileNo) (r : ShapeRec) : StoreTile :=
  let t := (b.tile d).ver
  let es := t.elements r
  { rec_ := r, elems := es.toArray, vals := (t.vals r).toArray, scales := t.scales.toArray,
    base := (lowestOrigin es).getD 0 }

/-- The poison of an element. -/
def StoreTile.poison (t : StoreTile) (e : Nat) : Option Crumb :=
  (t.elems.getD e (.bits 0)).crumb

/-- A number's bytes from an address up, before translation. -/
def spread (va n v : Nat) : List (Nat × Byte) :=
  match n with
  | 0 => []
  | n + 1 => (va, BitVec.ofNat 8 v) :: spread (wrap64 (va + 1)) n (v / 256)

/-- The bytes that one element writes (R184, R274); for a narrow encoding the whole block, at its first
selected element. -/
def StoreTile.write (t : StoreTile) (f : Mfmt) (p : StorePolicy) (e : Nat) (x : Source) :
    List (Nat × StoreCell) :=
  let r := t.rec_
  let cell (poison : Bool) (mask : Byte) (b : Nat × Byte) : Nat × StoreCell :=
    (b.1, { pa := 0, byte := b.2, mask := mask, poison := poison, elem := e })
  match x.scale with
  | some sc =>
    let i := e / r.ncols
    let b := e % r.ncols / 32
    let lo := i * r.ncols + 32 * b
    let n := Nat.min 32 (r.ncols - 32 * b)
    let idx := (List.range n).map (lo + ·)
    let s := storeBlock f r.tag p (t.scales.getD (i * blocksOf r.ncols + b) 0)
      (idx.map fun k => t.elems.getD k (.bits 0)) (idx.map fun k => t.vals.getD k (.int 0))
    let body := ((x.ranges.find? fun g => g.1 != sc).map (·.1)).getD (wrap64 (sc + 1))
    cell s.poison 0xFF (sc, BitVec.ofNat 8 s.scale) ::
      (spread body (4 * f.enc.width) s.body).map (cell s.poison 0xFF)
  | none =>
    let s := storeElem f r.tag p t.base (t.elems.getD e (.bits 0)) (t.vals.getD e (.int 0))
    if f.enc.width = 4 then
      let last := x.shift = 0 && e % r.ncols + 1 = r.ncols
      [cell s.poison (if last then 0xFF else if x.shift = 0 then 0x0F else 0xF0)
        (x.va, BitVec.ofNat 8 (s.pat * 2 ^ x.shift))]
    else (spread x.va x.bytes s.pat).map (cell s.poison 0xFF)

/-- One element of each stored block: of a narrow encoding, the first that is written (R274). -/
def onePerBlock (narrow : Bool) (cols : Nat) (xs : List (Nat × Source)) : List (Nat × Source) :=
  if narrow then
    xs.foldl (fun a x => if a.any fun y => y.1 / cols == x.1 / cols &&
      y.1 % cols / 32 == x.1 % cols / 32 then a else a ++ [x]) []
  else xs

/-- The cells of the elements that are performed, at addresses that `at_` gives, in ascending element order: each
element's own where the pages keep elements apart (R267, R271), else each byte once (R274). -/
def StoreTile.cells (t : StoreTile) (f : Mfmt) (p : StorePolicy) (apart : Bool) (at_ : Nat → Nat)
    (xs : List (Nat × Source)) : List StoreCell :=
  let raw := (onePerBlock f.enc.narrow t.rec_.ncols xs).flatMap fun x => t.write f p x.1 x.2
  let cs := raw.map fun (va, c) => { c with pa := at_ va }
  if apart then cs else settleCells cs

/-! ## Checks that the stores share -/

/-- A poisoned write mask traps (R212, R275). -/
def plainMask (m : MaskReg) : M Unit := raiseIf m.poison.isSome .poisonAddr

/-- Poison in selected elements under TRAP (R270); the lowest element is named. -/
def storePoison (trap : Bool) (t : StoreTile) (xs : List (Nat × Source)) : M Unit :=
  if trap then
    match xs.find? fun x => (t.poison x.1).isSome with
    | some (e, _) => raiseAt .poisonStore e
    | none => pure ()
  else pure ()

/-- The elements of the stored blocks that are written, selected or not (R274). -/
def blockMates (f : Mfmt) (cols : Nat) (xs : List (Nat × Source)) : List (Nat × Source) :=
  if f.enc.narrow then
    (onePerBlock true cols xs).flatMap fun (e, x) =>
      let j := e % cols
      let first := e - j % 32
      (List.range (Nat.min 32 (cols - (j - j % 32)))).map fun k =>
        (first + k, { x with va := wrap64 (x.va + 2 ^ 64 - f.enc.width * (j % 32) / 8 + f.enc.width * k / 8) })
  else xs

/-- The lowest origin among the replaced elements, and the first of them (R213). -/
def replaced (t : StoreTile) (xs : List (Nat × Source)) : Option (Nat × Source × Crumb) :=
  let ps := xs.filterMap fun (e, x) => (t.poison e).map fun c => (e, x, c)
  match ps with
  | [] => none
  | (e, x, c) :: r =>
    some (e, x, r.foldl (fun a y => if y.2.2.origin.toNat < a.origin.toNat then y.2.2 else a) c)

/-- The record of a store that replaced poison (R213), in a narrow encoding that of every element of a written block
(log entry 87). A store that is performed in parts, under m7 or from ESTART, leaves one for each part that replaced poison:
DESIGN CHOICE, log entry 102. -/
def canonStore (p : StorePolicy) (f : Mfmt) (t : StoreTile) (m : PageMap) (xs : List (Nat × Source)) : M Unit :=
  if p == .canon then
    match replaced t (blockMates f t.rec_.ncols xs) with
    | some (_, x, c) => canonRecord (m.pa x.va) c
    | none => pure ()
  else pure ()

/-! ## TST, TSTS, TSCT -/

/-- A value that makes its block a plain NaN block without being one (R90, R102). -/
def Val.isInf (v : Val) : Bool :=
  match v with
  | .num (.inf _) => true
  | _ => false

/-- The lowest of the written elements that makes a block of a narrow encoding a plain NaN block (R90, R102). -/
def StoreTile.madeNan (t : StoreTile) (f : Mfmt) (xs : List (Nat × Source)) : Option Nat :=
  if f.enc.narrow && !t.rec_.tag.narrow then
    ((blockMates f t.rec_.ncols xs).map (·.1)).foldl (fun a e =>
      if (t.vals.getD e (.int 0)).isInf then some (Nat.min e (a.getD e)) else a) none
  else none

/-- The version with poison in the place of those elements (R102). -/
def StoreTile.poisonInfs (t : StoreTile) (c : Crumb) : StoreTile :=
  let bad (e : Nat) : Bool := (t.vals.getD e (.int 0)).isInf
  { t with elems := ((withIndex 0 t.elems.toList).map fun (e, x) => if bad e then .poison c else x).toArray,
           vals := (t.vals.toList.map fun v => if v.isInf then .bad c else v).toArray }

/-- Where a store of the block logs the NaN that it generates (R102, R360): the source's coordinate. -/
def Block.nanAt (b : Block) (d : TileNo) (r : ShapeRec) (e : Nat) : CrumbAt :=
  { kind := 5, form := 1, loc := tileLoc d (e / r.ncols) (e % r.ncols), syn := 0, pc := b.pc, engine := false,
    key := b.id.key }

/-- A store that completes under m7, from the sources of its elements on (R275, R276); under GENNAN the blocks of a narrow
encoding that an infinity makes NaN are poison (R102), log entry 81. -/
def storeFrom (i : Issue) (d : TileNo) (r : ShapeRec) (f : Mfmt) (h : BitVec 1) (foot : Nat) (o : Os)
    (u : TlbUnit) (srcs : List Src) : M Unit := do
  let b ← getBlk
  let xs := (reads srcs).filter fun x => i.from_ ≤ x.1
  aligned f.enc.unit xs
  let pm ← reachAll u .write xs
  let bad := faulted pm i.one xs
  let live := performable b.ps.compat bad xs
  noBreach pm live
  let t := b.storeTile d r
  let p := b.storePolicy
  storePoison (p == .trap) t xs
  needRows (b.m7Rows r)
  needBatch bad
  let apart := pm.order != .queued
  let pends (t : StoreTile) : List Pend :=
    pendsOf apart (b.residency h foot).bypass (b.groupOf r) (t.cells f p apart pm.pa live)
  readyWrites o pm.order (pends t)
  let t ← match if b.genNan then t.madeNan f live else none with
    | none => pure t
    | some e => do
      let c ← modifyGet fun w => w.crumb b.id.ctx (b.nanAt d r e)
      pure (t.poisonInfs c)
  putWrites o pm.order (pends t)
  canonStore p f t pm live
  finish i d r bad

/-- TST and TSTS (R273). -/
def rowStore (d : TileNo) (a : Reg) (x : Option Reg) (stride : Mfmt → ShapeRec → Block → Int)
    (m : MaskField) (h : BitVec 1) (o : Os) : M Unit := do
  let i ← issue
  let r ← loadStart d
  let f ← mfmt r.tag false
  let b ← getBlk
  if (b.rs a).poison.isSome || (x.map fun x => (b.rs x).poison.isSome) == some true then
    raise .poisonAddr
  let mask := b.rm_ (i.mask m)
  plainMask mask
  let st := stride f r b
  if st % f.enc.unit != 0 && x.isSome then raise .addrAlign
  let at_ (row : Nat) : Option Nat := some (((b.sv a).toNat + st * row) % 2 ^ 64).toNat
  storeFrom i d r f h (rowFootprint r (f.enc.rowBytes r.ncols) st) o b.laneUnit (rowSrcs f r (mask.select r.size) at_)

/-- TST (R273). -/
def execTst (d : TileNo) (a : Reg) (m : MaskField) (h : BitVec 1) (o : Os) (s : State) :
    Host.Outcome State Fault Refusal :=
  run s true (rowStore d a none (fun f r _ => f.enc.rowBytes r.ncols) m h o)

/-- TSTS (R273). -/
def execTsts (d : TileNo) (a b : Reg) (m : MaskField) (h : BitVec 1) (o : Os) (s : State) :
    Host.Outcome State Fault Refusal :=
  run s true (rowStore d a (some b) (fun _ _ k => (k.sv b).toInt) m h o)

/-- The indices of an index tile. -/
def Block.indices (b : Block) (x : TileNo) (rx : ShapeRec) : Nat → Index :=
  let es := ((b.tile x).ver.elements rx).toArray
  fun k => indexOf rx.tag (es.getD k (.bits 0))

/-- Element addresses from an index tile (R277, R278, R280). -/
def elemSrcs (f : Mfmt) (base : Nat) (sel : List Bool) (at_ : Nat → Index) : List Src :=
  (withIndex 0 sel).map fun (e, s) =>
    if s then match (at_ e).addr base f.enc.unit with
      | some va => .at_ (f.source va 1 0)
      | none => .fill 0
    else .off

/-- TSCT (R277). -/
def tsct (d : TileNo) (a : Reg) (x : TileNo) (m : MaskField) (h : BitVec 1) (o : Os) : M Unit := do
  let i ← issue
  let r ← bound d
  let rx ← bound x
  freshRecs [r, rx]
  let mode ← gatherMode r rx
  if !rx.tag.isInt then raise .typeState
  let f ← mfmt r.tag (mode == .byElem)
  let b ← getBlk
  let mask := b.rm_ (i.mask m)
  if (b.rs a).poison.isSome then raise .poisonAddr
  plainMask mask
  let base := (b.sv a).toNat
  let at_ := b.indices x rx
  let sel := mask.select r.size
  match mode with
  | .byRow =>
    noPoisonIndex sel fun e => at_ (e / r.ncols)
    let rb := f.enc.rowBytes r.ncols
    let row (k : Nat) : Option Nat := (at_ k).addr base rb
    storeFrom i d r f h (rowsFootprint r rb row) o .gather (rowSrcs f r sel row)
  | .byElem =>
    noPoisonIndex sel at_
    let srcs := elemSrcs f base sel at_
    storeFrom i d r f h (elemFootprint f.enc.unit r.size fun e => (at_ e).addr base f.enc.unit) o .gather srcs

/-- TSCT (R277). -/
def execTsct (d : TileNo) (a : Reg) (b : TileNo) (m : MaskField) (h : BitVec 1) (o : Os)
    (s : State) : Host.Outcome State Fault Refusal :=
  run s true (tsct d a b m h o)

/-! ## TSCTA -/

/-- The tags that TSCTA and TATOM take (R278, R280). -/
def atomTag (t : Tag) : Bool := t == .fp64 || t == .fp32 || t == .int32 || t == .uint32

/-- add of R278 on elements. -/
def addElems (t : Tag) (x y : Elem) : Elem :=
  match x, y with
  | .bits a, .bits b => .bits (t.addBits a b)
  | .poison c, .bits _ => .poison c
  | .bits _, .poison c => .poison c
  | .poison c, .poison e => .poison (c.merge e)

/-- One update of R278: its first element, its address, its sum, and whether that is a NaN of its making (R102). -/
structure Update where
  elem : Nat
  va : Nat
  sum : Elem
  made : Bool
  deriving DecidableEq, Repr

/-- Merges an element into the updates so far. -/
def addUpdate (t : Tag) (u : Update) (us : List Update) : List Update :=
  match us with
  | [] => [u]
  | x :: r =>
    if x.va = u.va then
      let made := match x.sum, u.sum with
        | .bits a, .bits b => t.isFloat && t.fmt.sumMakesNan a b
        | _, _ => false
      { x with sum := addElems t x.sum u.sum, made := x.made || made } :: r
    else x :: addUpdate t u r

/-- A sum that is a generated NaN, as poison (R102). -/
def Update.spoil (c : Crumb) (u : Update) : Update :=
  if u.made then { u with sum := match u.sum with
    | .bits _ => .poison c
    | .poison e => .poison (c.merge e) }
  else u

/-- A sum as it is handed to its home (R270, R278). -/
def Update.final (u : Update) (t : Tag) (p : StorePolicy) : Elem :=
  match u.sum with
  | .bits v => .bits v
  | .poison c => if p == .canon then .bits t.canon else .poison c

/-- The checks that TSCTA and TATOM share (R275, R278, R280): the records and the encoding. -/
def atomStart (d x : TileNo) (ok : Tag → Bool) : M (ShapeRec × ShapeRec × Mfmt) := do
  let r ← bound d
  let rx ← bound x
  freshRecs [r, rx]
  sameShapes r [rx]
  let f ← mfmt r.tag true
  if !rx.tag.isInt || !ok r.tag || f.enc != r.tag then raise .typeState
  return (r, rx, f)

/-- The selected elements of TSCTA and TATOM after the checks of their operands (R275, orders 4 to 6). -/
def atomSrcs (i : Issue) (a : Reg) (x : TileNo) (m : MaskField) (r rx : ShapeRec) (f : Mfmt) :
    M (List Src) := do
  let b ← getBlk
  let mask := b.rm_ (i.mask m)
  if (b.rs a).poison.isSome then raise .poisonAddr
  plainMask mask
  let at_ := b.indices x rx
  let sel := mask.select r.size
  noPoisonIndex sel at_
  return elemSrcs f (b.sv a).toNat sel at_

/-- TSCTA (R278). -/
def tscta (d : TileNo) (a : Reg) (x : TileNo) (m : MaskField) (o : Os) : M Unit := do
  let i ← issue
  let (r, rx, f) ← atomStart d x atomTag
  let srcs ← atomSrcs i a x m r rx f
  let b ← getBlk
  let xs := (reads srcs).filter fun y => i.from_ ≤ y.1
  aligned f.enc.unit xs
  let pm ← reachAll .gather .atomic xs
  let bad := faulted pm i.one xs
  let live := performable b.ps.compat bad xs
  noBreach pm live
  let t := b.storeTile d r
  let p := b.storePolicy
  storePoison (p == .trap) t xs
  needRows (b.m7Rows r)
  needBatch bad
  let us := live.foldl (fun us y => addUpdate r.tag
    { elem := y.1, va := y.2.va, sum := t.elems.getD y.1 (.bits 0), made := false } us) []
  let id ← nextFresh
  let pend (g : Nat → GenNan) (u : Update) : Pend :=
    let v := u.final r.tag p
    { slice := b.groupOf r u.elem, line := lineOf (pm.pa u.va), kind := .add (pm.pa u.va) r.tag v (g u.elem),
      poison := v.crumb.isSome, bypass := false }
  readyWrites o pm.order (us.map (pend fun _ => .off))
  let made := if b.genNan then us.find? (·.made) else none
  let (us, gen) ← match made with
    | none => pure (us, fun e => b.genNanAt id 1 (tileLoc d (e / r.ncols) (e % r.ncols)))
    | some u => do
      let c ← modifyGet fun w => w.crumb b.id.ctx (b.nanAt d r u.elem)
      pure (us.map (Update.spoil c), fun _ => GenNan.known c)
  putWrites o pm.order (us.map (pend gen))
  canonStore p f t pm live
  finish i d r bad

/-- TSCTA (R278). -/
def execTscta (d : TileNo) (a : Reg) (b : TileNo) (m : MaskField) (_h : BitVec 1) (o : Os)
    (s : State) : Host.Outcome State Fault Refusal :=
  run s true (tscta d a b m o)

/-! ## TATOM -/

/-- The atomic's code for a TATOM op in a tag (R279, R280, R384). -/
def tatomCode (t : Tag) (op : Nat) : Nat :=
  match op with
  | 0 => if t.isFloat then 10 else 0
  | 1 => if t.isFloat then 11 else if t.signed then 4 else 6
  | 2 => if t.isFloat then 12 else if t.signed then 5 else 7
  | 3 => 1
  | 4 => 2
  | 5 => 3
  | _ => 8

/-- The operand of one element. -/
def atomElem (t : Tag) (p : StorePolicy) (e : Elem) : AtomArg :=
  match e with
  | .bits v => { bits := v, poison := false }
  | .poison c => atomArg p (some c) 0 (t.poisonBits 0 c) t.canon

/-- Keeps the old value that an atomic of the block on a word of this device returned, while later ones wait
(R281). -/
def Dev.keepOld (d : Dev) (elem slice pa : Nat) (v : Option Nat) : Dev :=
  let r : Req := { tag := 0, kind := .atomic, peer := d.fw.deviceId, line := lineOf pa, by_ := some d.blk.id.key,
                   slice := slice, elem := some elem, expect := none, answer := some (natLe 8 (v.getD 0), v.isNone) }
  { d with link := { d.link with reqs := d.link.reqs ++ [r] } }

/-- One atomic of an element on a word of this device, among others on peers' words; performed once (R281). -/
def atomNear (pa n op elem slice : Nat) (f : Fmt) (x : AtomArg) (g : GenNan) : M (Option Nat) := do
  match ((← getDev).atomReply elem).bind (·.answer) with
  | some (bs, bad) => return if bad then none else some (leNat bs % 2 ^ n)
  | none => do
    claimLine (lineOf pa) true
    let (v, _) ← modifyGet fun w => (w.usesL2 slice (lineOf pa) false).atomHere pa n op f x 0 g
    modifyDev fun d => d.keepOld elem slice pa v
    return v

/-- The atomics of elements of which some lie on peers' words, in ascending element order, each awaited (R281, R300,
R384). -/
def atomsThere (t : Tag) (op : Nat) (slice : Nat → Nat) (arg : Nat → AtomArg) (gen : Nat → GenNan)
    (xs : List (Nat × Nat)) : M (List (Nat × Option Nat)) :=
  match xs with
  | [] => pure []
  | (e, pa) :: r => do
    let v ← if regionOf pa = 3 then atomThere pa t.width op e (slice e) (arg e) 0
      else atomNear pa t.width op e (slice e) t.fmt (arg e) (gen e)
    return (e, v) :: (← atomsThere t op slice arg gen r)

/-- The atomics on this device's words, in ascending element order (R280); the first NaN that they generate appends the
entry of all (R102). -/
def Work.atomsHere (w : Work) (t : Tag) (op : Nat) (arg : Nat → AtomArg) (gen : Nat → GenNan) (xs : List (Nat × Nat)) :
    List (Nat × Option Nat) × Work :=
  match xs with
  | [] => ([], w)
  | (e, pa) :: r =>
    let ((v, g), w) := w.atomHere pa t.width op t.fmt (arg e) 0 (gen e)
    let gen := match g with
      | .known c => fun _ => .known c
      | _ => gen
    let (vs, w) := w.atomsHere t op arg gen r
    ((e, v) :: vs, w)

/-- The cell of d for an element after its update (R103, R280). -/
def oldCell (t : Tag) (v : Option Nat) (c : Option Crumb) : Cell :=
  match v with
  | some p => .same (.bits (deliver t p)) (elemVal t 0 (.bits p))
  | none =>
    let c := c.getD { origin := 0, merged := false }
    .same (.poison c) (.bad c)

/-- TATOM (R280). -/
def tatom (d : TileNo) (a : Reg) (x : TileNo) (m : MaskField) (op : Nat) (o : Os) : M Unit := do
  let i ← issue
  let (r, rx, f) ← atomStart d x fun t => atomTag t && (op < 3 || op == 6 || t.isInt)
  let srcs ← atomSrcs i a x m r rx f
  let b ← getBlk
  let xs := (reads srcs).filter fun y => i.from_ ≤ y.1
  aligned f.enc.unit xs
  let pm ← reachAll .gather .atomic xs
  let bad := faulted pm i.one xs
  let live := performable b.ps.compat bad xs
  noBreach pm live
  let t := b.storeTile d r
  let p := b.storePolicy
  storePoison (p == .trap) t xs
  needRows (r.storage b.place.width + b.m7Rows r)
  needBatch bad
  let slice := b.groupOf r
  let lines := pm.allLines (← get) live
  if releases o || pm.strict then drainAcked else drainBefore ((live.map fun y => slice y.1).eraseDups) lines
  let w ← get
  let places := live.map fun y => (y.1, w.redirect (pm.pa y.2.va))
  let far := places.filter fun y => regionOf y.2 == 3
  let arg (e : Nat) : AtomArg := atomElem r.tag p (t.elems.getD e (.bits 0))
  let code := tatomCode r.tag op
  let gen (e : Nat) : GenNan := b.genNanAt 0 1 (tileLoc d (e / r.ncols) (e % r.ncols))
  let olds ← if far != [] then atomsThere r.tag code slice arg gen places
    else do
      for l in lines do claimLine l true
      modify fun w => w.accessLines (pm.demand w slice live) true { bypass := false, low := false }
      modifyGet fun w => w.atomsHere r.tag code arg gen places
  for y in far do
    if journalAt olds y.1 == some none then modify fun w => w.setPoison (lineOf y.2) true
  let lost := (places.filter fun y => journalAt olds y.1 == some none).map fun y => lineOf y.2
  let cs ← crumbLines lost.eraseDups
  let cell (e : Nat) (s : Src) (q : Cell) : Cell :=
    match s with
    | .off => q
    | .fill _ => zeroCell r.tag
    | .at_ _ =>
      match journalAt olds e with
      | none => q
      | some v => oldCell r.tag v ((journalAt places e).bind fun pa => journalAt cs (lineOf pa))
  let srcs := cutAt b.ps.compat bad (i.skip srcs)
  let prior := b.priorCells d r
  canonStore p f t pm live
  writeCells d r .rne false false ((withIndex 0 (srcs.zip prior)).map fun (e, s, q) => cell e s q)
  dropAtoms
  finish i d r bad

/-- TATOM (R280). -/
def execTatom (d : TileNo) (a : Reg) (b : TileNo) (m : MaskField) (p : BitVec 3) (o : Os)
    (s : State) : Host.Outcome State Fault Refusal :=
  run s true (tatom d a b m p.toNat o)

/-! ## Scratch -/

/-- One cell into scratch bytes (R228, R274). -/
def putScratch (m : Memory) (c : StoreCell) : Memory :=
  cellPut 0 m c.pa ((cellAt 0 m c.pa &&& ~~~c.mask) ||| (c.byte &&& c.mask))

/-- Segments of scratch that are written whole hold no error any more (R215, R228). -/
def Work.scratchWritten (w : Work) (cs : List StoreCell) : Work :=
  if w.dev.unc.upsets = [] then w
  else
    let whole (g : Nat) : Bool := (cs.filter fun c => c.pa / 16 == g && c.mask == 0xFF#8).length == 16
    w.keepUpsets fun u => match u.loc with
      | .scratch k g => !(k == w.dev.blk.id.key && whole g)
      | _ => true

/-- TSTSH (R273, R280). -/
def tstsh (d : TileNo) (a : Reg) (m : MaskField) : M Unit := do
  let r ← loadStart d
  let f ← mfmt r.tag false
  let b ← getBlk
  if (b.rs a).poison.isSome then raise .poisonAddr
  let mask := b.rm_ m
  plainMask mask
  let rb := f.enc.rowBytes r.ncols
  let xs := reads (rowSrcs f r (mask.select r.size) fun row => some (wrap64 ((b.sv a).toNat + rb * row)))
  aligned f.enc.unit xs
  match xs.find? fun x => !inScratch b x.2 with
  | some (e, _) => raiseAt .scratchRange e
  | none => pure ()
  let t := b.storeTile d r
  let p := b.storePolicy
  storePoison (p != .canon) t xs
  let cells := t.cells f p false id xs
  modify fun w => w.scratchWritten cells
  modifyBlk fun k => { k with scratch := cells.foldl putScratch k.scratch }
  match if p == .canon then replaced t (blockMates f r.ncols xs) else none with
  | some (_, _, c) =>
    modify fun w => w.errLog 1 5 b.place.core 0 0 c.origin.toNat (w.dev.cycle b.place.core)
  | none => pure ()

/-- TSTSH (R273). -/
def execTstsh (d : TileNo) (a : Reg) (m : MaskField) (s : State) : Host.Outcome State Fault Refusal :=
  run s true (tstsh d a m)

end Sys2Proof.Machine
end

