-- ==== Sys2Proof/Machine/System.lean ====
section
/-! DEFINITION. Control registers and the system instructions (R202 to R208, R214, R216, R218, R219, R221). -/
namespace Sys2Proof.Machine

/-! ## Control registers -/

/-- BLOCKID.P (R206). -/
def Place.physical (p : Place) : Word :=
  BitVec.ofNat 64 (p.core % 2 ^ 9 + 2 ^ 9 * (p.part % 4) + 2 ^ 11 * (p.lane % 128) +
    2 ^ 18 * (p.share % 256))

/-- The value of control register `n` for the block that issues (R204 to R206). -/
def Dev.csr (d : Dev) (n : Nat) : Word :=
  let b := d.blk
  let c := b.csr
  match n with
  | 0x000 => c.srseed
  | 0x001 => c.mfmt
  | 0x002 => c.poisoncfg
  | 0x003 => c.bypassth
  | 0x004 => c.trapvec
  | 0x005 => c.noticepc
  | 0x006 => c.estart
  | 0x010 => b.ps.word
  | 0x011 => c.trapcause
  | 0x012 => c.trappc
  | 0x013 => c.traptile
  | 0x014 => c.fltinfo
  | 0x015 => c.nretpc
  | 0x020 => b.id.logical
  | 0x021 => b.place.physical
  | 0x022 => BitVec.ofNat 64 (b.id.gang % 2 ^ 32)
  | 0x023 => BitVec.ofNat 64 (b.id.gangSize % 128)
  | 0x024 => BitVec.ofNat 64 b.id.key.lid
  | 0x025 => BitVec.ofNat 64 b.id.ctxid
  | 0x026 => BitVec.ofNat 64 b.effShare
  | 0x027 => ((d.launch b.id.key.lid).map (·.eleft)).getD 0
  | 0x028 => BitVec.ofNat 64 (d.cycle b.place.core)
  | 0x030 => c.caphead
  | 0x100 => d.logBase b.id.ctx
  | 0x200 => d.scrubcfg
  | 0x201 => d.err.reg
  | _ => 0

/-- A write of POISONCFG (R213): STORE takes no 3; reserved bits ignore it. -/
def poisonCfg (old v : Word) : Word :=
  let store := v.extractLsb' 0 2
  let keep := if store = 3 then old.extractLsb' 0 2 else store
  0#61 ++ (v.extractLsb' 2 1 ++ keep)

/-- One field of a SCRUBCFG write (R218): 0, or 10 to 40. -/
def scrubField (old v : BitVec 8) : BitVec 8 :=
  if v = 0 ∨ (10 ≤ v.toNat ∧ v.toNat ≤ 40) then v else old

/-- A write of SCRUBCFG (R218). -/
def scrubCfg (old v : Word) : Word :=
  let f (i : Nat) : BitVec 8 := scrubField (old.extractLsb' (8 * i) 8) (v.extractLsb' (8 * i) 8)
  0#24 ++ (f 4 ++ (f 3 ++ (f 2 ++ (f 1 ++ f 0))))

/-- ERRLOG and LOGBASE hold bits 4:0 and 63:12 (R206, R219). -/
def logReg (v : Word) : Word := v &&& 0xFFFFFFFFFFFFF01F#64

/-- A write of ERRLOG, which sets the next-record index to 0 (R219). -/
def Dev.writeErrlog (d : Dev) (v : Word) : Dev :=
  { d with err := { d.err with reg := logReg v, next := 0 } }

/-- A write of control register `n` (R204 to R206): reserved bits ignore it. -/
def Dev.putCsr (d : Dev) (n : Nat) (v : Word) : Dev :=
  let b := d.blk
  let c := b.csr
  let put (c : Csr) : Dev := { d with blk := { b with csr := c } }
  match n with
  | 0x000 => put { c with srseed := v }
  | 0x001 => put { c with mfmt := v &&& 0x7FF#64 }
  | 0x002 => put { c with poisoncfg := poisonCfg c.poisoncfg v }
  | 0x003 => put { c with bypassth := v }
  | 0x004 => put { c with trapvec := v &&& ~~~3#64 }
  | 0x005 => put { c with noticepc := v &&& ~~~3#64 }
  | 0x006 => put { c with estart := v &&& 0xFFFFFFFF#64 }
  | 0x011 => put { c with trapcause := v &&& 0x7FFF#64 }
  | 0x012 => put { c with trappc := v }
  | 0x013 => put { c with traptile := v &&& 0xFFFFFFFF#64 }
  | 0x014 => put { c with fltinfo := v &&& 0x3FFFFFFFF#64 }
  | 0x100 => { d with logbase := cellPut 0 d.logbase b.id.ctx (logReg v) }
  | 0x200 => { d with scrubcfg := scrubCfg d.scrubcfg v }
  | 0x201 => d.writeErrlog v
  | _ => d

/-- The level that a control-register instruction needs (R202, R204); none for a number or a write that
names no register (R68). -/
def csrNeeds (write : Bool) (c : Nat) : Option Nat :=
  match csrLevels c with
  | none => none
  | some (r, w) => if write then w else some r

/-- The CSR instructions (R207): ILLEGAL, then PRIV, then POISON_CTRL (R53, R205). -/
def csrInstr (s : State) (d : Reg) (v : Option SReg) (c : Nat) (f : Word → Word → Word) :
    Host.Outcome State Fault Refusal :=
  let k := s.dev.blk
  let old := s.dev.csr c
  match csrNeeds v.isSome c with
  | none => trapNow s .illegal
  | some lv =>
    if k.ps.pl.code < lv then trapNow s .priv
    else match v with
      | none => done s (k.ws d (SReg.plain old))
      | some x =>
        if x.poison.isSome then trapNow s .poisonCtrl
        else
          let dev := s.dev.putCsr c (f old x.val)
          done { s with dev := dev } (dev.blk.ws d (SReg.plain old))

/-- CSRR (R207). -/
def execCsrr (d : Reg) (c : BitVec 12) (s : State) : Host.Outcome State Fault Refusal :=
  csrInstr s d none c.toNat fun o _ => o

/-- CSRW (R207). -/
def execCsrw (d a : Reg) (c : BitVec 12) (s : State) : Host.Outcome State Fault Refusal :=
  csrInstr s d (some (s.dev.blk.rs a)) c.toNat fun _ v => v

/-- CSRS (R207). -/
def execCsrs (d a : Reg) (c : BitVec 12) (s : State) : Host.Outcome State Fault Refusal :=
  csrInstr s d (some (s.dev.blk.rs a)) c.toNat fun o v => o ||| v

/-- CSRC (R207). -/
def execCsrc (d a : Reg) (c : BitVec 12) (s : State) : Host.Outcome State Fault Refusal :=
  csrInstr s d (some (s.dev.blk.rs a)) c.toNat fun o v => o &&& ~~~v

/-! ## System -/

/-- TRAP (R208): commits, then traps with code v and the address of the next word. -/
def execTrap (v : BitVec 7) (s : State) : Host.Outcome State Fault Refusal :=
  let next := s.dev.blk.pc + 4
  let w := { Work.start s with dev := s.dev.commit false s.dev.blk next }
  .next ((w.trapEntry .trap v.toNat 0 none next).settle s)

/-- RTH (R208). -/
def execRth (s : State) : Host.Outcome State Fault Refusal :=
  runTo s false returnFromTrap

/-- EXIT (R41, R208): the block retires at its commit. -/
def execExit (s : State) : Host.Outcome State Fault Refusal :=
  let w := { Work.start s with dev := s.dev.commit false s.dev.blk (s.dev.blk.pc + 4) }
  .next ((w.retireBlock false).settle s)

/-- YIELD (R208): the block becomes the youngest of its partition and issues nothing for 16 clocks unless no
other block of the partition is ready. -/
def execYield (s : State) : Host.Outcome State Fault Refusal :=
  done s { s.dev.blk with yieldUntil := s.dev.clock + 16 }

/-- WAIT (R208). -/
def execWait (a : Reg) (s : State) : Host.Outcome State Fault Refusal :=
  let k := s.dev.blk
  let x := k.rs a
  if x.poison.isSome then trapNow s .poisonCtrl
  else if x.val.extractLsb' 32 32 != 0 then trapNow s .sysState
  else
    let n := (x.val.extractLsb' 0 32).toNat
    if n = 0 then done s k
    else done s { k with run := .waiting, wait := .clocks (s.dev.cycle k.place.core + n) }

/-- NOTICEDONE (R221, rows 2, 4 and 5). -/
def execNoticedone (s : State) : Host.Outcome State Fault Refusal :=
  let k := s.dev.blk
  if !k.ps.notice then trapNow s .sysState
  else
    let k := { k with ps := { k.ps with notice := false }, window := none }
    match k.preempt with
    | none => .next (s.commit false k k.csr.nretpc)
    | some p =>
      .next (s.commit false
        { k with run := .saving, preempt := some { p with resume := k.csr.nretpc } } k.csr.nretpc)

/-- POISON (R214). -/
def poison (d : TileNo) (a : Reg) : M Unit := do
  let r ← bound d
  freshRecs [r]
  let k ← getBlk
  let x := k.rs a
  if x.poison.isSome then raise .poisonCtrl
  needRows (r.storage k.place.width)
  let c ← modifyGet fun w => w.crumb k.id.ctx
    { kind := 6, form := 1, loc := tileLoc d 0 0, syn := (x.val.extractLsb' 0 32).toNat, pc := k.pc,
      engine := false, key := k.id.key }
  poisonTile d r c

/-- POISON (R214). -/
def execPoison (d : TileNo) (a : Reg) (s : State) : Host.Outcome State Fault Refusal :=
  run s false (poison d a)

/-- MARBLE (R216). -/
def marble (a : Reg) : M Unit := do
  let k ← getBlk
  let x := k.rs a
  if x.poison.isSome then raise .poisonCtrl
  if x.val != 0 && x.val != 1 then raise .sysState
  let on := x.val == 1
  let k' := { k with ps := { k.ps with marble := on } }
  setBlk (if on then k'.restale k'.effShare else k')
  modify fun w => w.mirror k.place.core

/-- MARBLE (R216). -/
def execMarble (a : Reg) (s : State) : Host.Outcome State Fault Refusal :=
  run s false (marble a)

end Sys2Proof.Machine
end

