-- ==== Sys2Proof/Machine/Context.lean ====
section
/-! DEFINITION. The member area: what a save writes and a restore reads (R220, R223, R224, R335, R343). -/
namespace Sys2Proof.Machine

/-! ## Origin words and rows -/

/-- An origin word (R99, R223). -/
def originWord (c : Option Crumb) : Nat :=
  match c with
  | some c => flagWord c
  | none => 0

/-- The crumb of an origin word (R99). -/
def wordOrigin (v : Nat) : Option Crumb :=
  if v.testBit 21 then some { origin := BitVec.ofNat 20 v, merged := v.testBit 20 } else none

/-- `n` bytes of a list of bytes, padded with zeros. -/
def padBytes (n : Nat) (bs : List Byte) : List Byte := bs ++ List.replicate (n - bs.length) 0

/-- Rounds up to a multiple of 64 (R223). -/
def up64 (n : Nat) : Nat := (n + 63) / 64 * 64

/-- The pattern under which a slot holds an element (R95, R97, R184). -/
def Tag.slotPat (t : Tag) (base : Nat) (e : Elem) : Nat :=
  match e with
  | .bits v => v
  | .poison c => t.poisonBits base c

/-- One block of a narrow row in a slot (R95, R184). -/
def Tag.slotBlock (t : Tag) (scale : Nat) (es : List Elem) : List Byte :=
  let body := match mergeElems es with
    | .some c => flagWord c
    | .none => packBits t.width (es.map fun e => match e with
        | .bits v => v
        | .poison _ => 0)
  natLe 1 scale ++ natLe (4 * t.width) body

/-- One row of a version in a slot (R184, R223). -/
def Tag.slotRow (t : Tag) (cols base : Nat) (es : List Elem) (scales : List Nat) : List Byte :=
  if t.narrow then
    (List.zip (chunks es.length 32 es) scales).flatMap fun (b, sc) => t.slotBlock sc b
  else natLe (t.rowBytes cols) (packBits t.width (es.map (t.slotPat base)))

/-- The bits of a list, eight to a byte. -/
def bitBytes (bs : List Bool) : List Byte :=
  natLe (ceilDiv bs.length 8) (packBits 1 (bs.map fun b => if b then 1 else 0))

/-- The rows of a version's slot, then what follows them (R223). -/
def Tile.slot (t : Tile) : List (List Byte) × List Byte :=
  let n := t.rows + t.kept
  let base := (lowestOrigin t.elems).getD 0
  let es := chunks n t.cols t.elems
  let sc := chunks n (blocksOf t.cols) t.scales
  let rows := if t.tag.narrow then (List.zip es sc).map fun (e, s) => t.tag.slotRow t.cols base e s
              else es.map fun e => t.tag.slotRow t.cols base e []
  let mask := if t.tag.isInt then bitBytes (t.elems.map fun e => e.crumb.isSome) else []
  let word := if t.tag.isInt || t.tag.isHalf then natLe 4 (originWord (mergeElems t.elems)) else []
  (rows, mask ++ word)

/-- The bytes of a mask's slot (R191, R223). -/
def MaskReg.slot (m : MaskReg) : List Byte :=
  natLe 8 (m.n + (if m.fill then 2 ^ 32 else 0)) ++ natLe (ceilDiv m.n 8) (m.bits % 2 ^ m.n) ++
    natLe 4 (originWord m.poison)

/-- The bytes of an arrived version's slot (R223). -/
def Tile.arrivedSlot (t : Tile) : List Byte :=
  let r : ShapeRec := { code := BitVec.ofNat 5 t.tag.code, grant := false, dead := false, stale := false,
                        rowsM1 := BitVec.ofNat 11 (t.rows - 1), cols := BitVec.ofNat 16 t.cols }
  let t' := if t.empty then
      Tile.none.fresh r (List.replicate r.size (.bits 0))
        (if r.tag.narrow then List.replicate (r.rows * blocksOf r.ncols) 0 else [])
    else t
  let (rows, tail) := t'.slot
  natLe 8 r.word.toNat ++ natLe 4 (if t.empty then 0 else t.valid) ++ List.replicate 52 0 ++ rows.flatten ++
    tail

/-! ## The layout of a save -/

/-- A slot of a save: its place, its size, and the pieces that are written. -/
structure SlotOut where
  at_ : Nat
  size : Nat
  pieces : List (Nat × List Byte)
  deriving DecidableEq, Repr

/-- A tile's slot at an offset (R223): row groups that are not dirty stay unwritten in an area that holds them
already, and so do those wholly at or above V, where no row that KEEP holds stands in them. -/
def Tile.slotOut (t : Tile) (at_ : Nat) (same : Option (Nat × Nat)) : SlotOut :=
  let (rows, tail) := t.slot
  let rb := t.tag.rowBytes t.cols
  let size := (rows.map (·.length)).sum + tail.length
  let all := same != some (at_, size)
  let live (q : Nat) : Bool := (all || t.dirty.testBit q) &&
    (8 * q * t.cols < t.valid || (t.kept != 0 && t.rows < 8 * q + 8))
  let groups := (withIndex 0 (chunks rows.length 8 rows)).filter fun x => live x.1
  { at_ := at_, size := size,
    pieces := (groups.map fun x => (at_ + 8 * x.1 * rb, x.2.flatten)) ++
      (if tail = [] then [] else [(at_ + (rows.map (·.length)).sum, tail)]) }

/-- The slots of the tiles in ascending number, from an offset (R223); a register without a slot gives none. -/
def tileSlots (ts : List (Nat × TileReg)) (old : List (Nat × Nat × Nat)) (at_ : Nat) :
    List (Option SlotOut) × Nat :=
  match ts with
  | [] => ([], at_)
  | (i, t) :: r =>
    if t.bound.isSome && !t.ver.empty then
      let o := t.ver.slotOut at_ ((old.find? fun x => x.1 == i).map fun x => x.2)
      let (os, e) := tileSlots r old (up64 (at_ + o.size))
      (some o :: os, e)
    else
      let (os, e) := tileSlots r old at_
      (none :: os, e)

/-- Plain slots of byte lists, where there are any. -/
def plainSlots (xs : List (Option (List Byte))) (at_ : Nat) : List (Option SlotOut) × Nat :=
  match xs with
  | [] => ([], at_)
  | none :: r =>
    let (os, e) := plainSlots r at_
    (none :: os, e)
  | some bs :: r =>
    let (os, e) := plainSlots r (up64 (at_ + bs.length))
    (some { at_ := at_, size := bs.length, pieces := [(at_, bs)] } :: os, e)

def slotUnits (o : Option SlotOut) : Nat :=
  match o with
  | some o => o.at_ / 64
  | none => 0

/-- The physical rows that the size of a member area counts (R220, R335): by the header's share. -/
def Header.areaRows (h : Header) : Nat := if h.share = 128 then 4 * h.grant else h.grant

/-- The offsets of a member area (R335). -/
def Header.x0 (h : Header) : Nat := 10752 + 640 * h.areaRows
def Header.x2 (h : Header) : Nat := h.x0 + up64 h.scratch
def Header.x3 (h : Header) : Nat := h.x2 + 2112 * h.tsRows + 64
def Header.areaSize (h : Header) : Nat := (h.x3 + 128 + 4095) / 4096 * 4096

/-- A member's area (R335). -/
def memberArea (base : Word) (whole : Bool) (gang gangSize m : Nat) (h : Header) : Word :=
  base + BitVec.ofNat 64 (((if whole then gang else 0) * gangSize + m) * h.areaSize)

/-- W_min (R224): the smallest share whose effective share holds every GRANT record (R216). -/
def Block.wMin (b : Block) : Nat :=
  let used := (b.t.toList.filterMap (·.bound)).map fun h => b.h[h.toNat]
  let eff (l : Nat) : Nat := if b.ps.marble then l / 2 else l
  let ok (l : Nat) : Bool := used.all fun r => !r.grant || r.stale || r.code == 0 || r.ncols ≤ r.tag.grant (eff l)
  (([4, 8, 16, 32, 128] : List Nat).find? ok).getD 128

/-- The fixed part of a member area (R223), its state as given. -/
def Block.fixedPart (b : Block) (state resume wait : Nat) (ts ms as : List (Option SlotOut)) : List Byte :=
  let c := b.csr
  let sReg (r : SReg) : List Byte := natLe 8 r.val.toNat ++ natLe 8 (originWord r.poison)
  let pReg (r : PReg) : List Byte := natLe 8 ((if r.val then 2 ^ 32 else 0) + originWord r.poison)
  let tReg (x : TileReg × Option SlotOut × Option SlotOut) : List Byte :=
    let (t, o, a) := x
    let hd := slotUnits o + (match t.bound with
        | .some h => 2 ^ 32 + 2 ^ 33 * h.toNat
        | .none => 0) + (if t.inbox.isSome then 2 ^ 37 else 0) + (if t.bound.isSome && t.ver.empty then 2 ^ 38 else 0) +
      2 ^ 40 * (t.ver.kept % 2048)
    natLe 8 hd ++ natLe 4 t.ver.valid ++ natLe 4 (slotUnits a)
  let mReg (o : Option SlotOut) : List Byte :=
    natLe 8 (slotUnits o + (if o.isSome then 2 ^ 32 else 0)) ++ natLe 8 0
  padBytes 0x2000
    (natLe 8 (3 + 256 * b.wMin + 2 ^ 16 * state) ++ natLe 8 resume ++ natLe 8 c.nretpc.toNat ++ natLe 8 wait ++
      natLe 8 (b.place.width + 2 ^ 16 * b.place.share) ++ List.replicate 24 0 ++
      ((List.range 32).flatMap fun i => sReg (b.rs (BitVec.ofNat 5 i))) ++
      ((List.range 8).flatMap fun i => pReg (b.rp_ (BitVec.ofNat 3 i))) ++
      (b.h.toList.flatMap fun h => natLe 8 h.word.toNat) ++
      ((b.t.toList.zip (ts.zip as)).flatMap tReg) ++ (ms.flatMap mReg) ++ List.replicate 16 0 ++
      ([c.srseed, c.mfmt, c.poisoncfg, c.bypassth, c.trapvec, c.noticepc, c.estart, b.ps.word, c.trapcause,
        c.trappc, c.traptile, c.fltinfo].flatMap fun v => natLe 8 v.toNat))

/-- The tile store part of a member area (R335). -/
def Block.tsPart (b : Block) : List Byte :=
  let n := b.place.tsRows
  let word (i : Nat) : AccWord := cellAt { bits := 0, p := false } b.acc i
  let words := (List.range (512 * n)).flatMap fun i => natLe 4 (word i).bits.toNat
  let ps := (List.range n).flatMap fun r => bitBytes ((List.range 512).map fun c => (word (512 * r + c)).p)
  words ++ ps ++ natLe 8 b.rp ++ natLe 8 b.rpAddr.toNat ++ List.replicate 48 0

def QState.code (s : QState) : Nat :=
  match s with
  | .idle => 0
  | .filling => 1
  | .faulted => 2
  | .abandoned => 3
  | .done => 4

def QState.ofCode (n : Nat) : QState :=
  match n with
  | 1 => .filling
  | 2 => .faulted
  | 3 => .abandoned
  | 4 => .done
  | _ => .idle

/-- A stream queue's 32 bytes (R343). -/
def StreamQueue.saved (q : StreamQueue) : List Byte :=
  natLe 8 q.popped ++ natLe 8 q.desc.toNat ++ natLe 8 q.src.toNat ++ natLe 4 q.count ++ natLe 4 q.st.code

/-- The CYCLE counts that a WAIT has left (R223, R373). -/
def Block.waitLeft (b : Block) (now : Nat) : Nat :=
  match b.wait with
  | .clocks t => t - now
  | _ => 0

/-- The save engine's last write (R220): the header with state SAVED. -/
def Block.savedHeader (b : Block) : List Byte := natLe 8 (3 + 256 * b.wMin + 2 ^ 16 * 5)

/-- What a save writes, by offset in the member area, before its header's last state (R220, R223, R335). -/
def Block.saveImage (b : Block) (h : Header) (area resume : Word) (now : Nat) : List (Nat × List Byte) :=
  let old := match b.area with
    | .some a => if a.base = area then a.slots else []
    | .none => []
  let (ts, e) := tileSlots (withIndex 0 b.t.toList) old 0x2000
  let (ms, e) := plainSlots ((b.m.toList.drop 1).map fun m =>
    if 0 < m.n || m.fill then .some m.slot else .none) e
  let (as, _) := plainSlots (b.t.toList.map fun t => t.inbox.map (·.arrivedSlot)) e
  let out (os : List (Option SlotOut)) : List (Nat × List Byte) := os.flatMap fun o => match o with
    | .some o => o.pieces
    | .none => []
  [(0, b.fixedPart 4 resume.toNat (b.waitLeft now) ts ms as)] ++ out ts ++ out ms ++ out as ++
    [(h.x0, padBytes (up64 h.scratch) ((List.range h.scratch).map fun i => cellAt 0 b.scratch i)),
     (h.x2, b.tsPart), (h.x3, b.queues.toList.flatMap (·.saved))]

/-! ## The save engine -/

/-- How the save engine got on. -/
inductive Saved where
  | done
  | fault
  deriving DecidableEq, Repr

/-- Pieces that stay within a line. -/
def linePieces (fuel va : Nat) (bs : List Byte) : List (Nat × List Byte) :=
  match fuel with
  | 0 => []
  | f + 1 =>
    if bs = [] then []
    else
      let n := 128 - va % 128
      (va, bs.take n) :: linePieces f (va + n) (bs.drop n)

/-- The save engine's translation (R220): W for a save, R for a restore; U and the level are not checked. -/
def saveReach (va : Nat) (write : Bool) : M (Option Nat) := do
  let w ← get
  let (f, w') := w.translate (w.dev.blk.spaceOf .save) va
  set w'
  match f with
  | .busy => stay
  | .leaf l => return if (if write then l.w else l.r) then some (l.pa va) else none
  | .fault => return none

/-- Writes pieces of lines, some as poison: everything is translated, then every home must take its line. -/
def saveBytes (xs : List (Nat × List Byte × Bool)) : M Saved := do
  let pas ← xs.mapM fun x => saveReach x.1 true
  if pas.any (·.isNone) then return .fault
  else do
    let w ← get
    let ys := (pas.zip xs).map fun (p, x) => (w.redirect (p.getD 0), x.2)
    for y in ys do readyWrite y.1 false
    for y in ys do
      performRun y.1 y.2.1 y.2.2
      modify fun w => w.accessL2 (lineOf y.1) true .plain
    return .done

/-- Reads `n` bytes of a member area; none at a fault, a breach or an uncorrectable error (R220). -/
def saveRead (fuel va n : Nat) : M (Option (List Byte)) :=
  match fuel with
  | 0 => return some []
  | f + 1 => do
    if n = 0 then return some []
    else
      let k := Nat.min n (128 - va % 128)
      match ← saveReach va false with
      | none => return none
      | some pa => do
        let line ← readyAt pa
        modify fun w => w.accessL2 line false .plain
        if ← lineIsBad line then return none
        else do
          let bs ← readRun pa k
          match ← saveRead f (va + k) (n - k) with
          | none => return none
          | some cs => return some (bs ++ cs)

/-! ## Restoring -/

/-- The element of a pattern in a slot (R96, R97). -/
def Tag.slotElem (t : Tag) (base v : Nat) : Elem :=
  let f := t.fmt
  if t.isInt || t.narrow || !f.looksPoison v then .bits v
  else if t.isHalf then
    let n := f.mbits - 2
    let s := v % 2 ^ n
    .poison { origin := BitVec.ofNat 20 (base + (s + 2 ^ n - base % 2 ^ n) % 2 ^ n),
              merged := f.signBit ≤ v }
  else .poison { origin := BitVec.ofNat 20 v, merged := v.testBit (f.mbits - 3) }

/-- The positions of a number, `w` bits each. -/
def unpack (w n v : Nat) : List Nat := (List.range n).map fun i => v / 2 ^ (w * i) % 2 ^ w

/-- A block of a narrow row: its scale and its elements (R95). -/
def Tag.readBlock (t : Tag) (bs : List Byte) (n : Nat) : Nat × List Elem :=
  let sc := leNat (bs.take 1)
  let body := leNat (bs.drop 1)
  if sc = 255 && body.testBit 21 && body < 2 ^ 22 then
    (sc, List.replicate n (.poison { origin := BitVec.ofNat 20 body, merged := body.testBit 20 }))
  else (sc, (unpack t.width n body).map Elem.bits)

/-- A stored row's elements and scales. -/
def Tag.readRow (t : Tag) (cols base : Nat) (bs : List Byte) : List Elem × List Nat :=
  if t.narrow then
    let blocks := (withIndex 0 (chunks bs.length (1 + 4 * t.width) bs)).map fun (i, b) =>
      t.readBlock b (Nat.min 32 (cols - 32 * i))
    (blocks.flatMap (·.2), blocks.map (·.1))
  else ((unpack t.width cols (leNat bs)).map (t.slotElem base), [])

/-- A version from the bytes of its slot: rows R + K; elements at or above V, below the kept rows, are zero, and so are
the scales of blocks that begin there (R223). -/
def readVersion (r : ShapeRec) (kept valid : Nat) (bs : List Byte) : Tile :=
  let t := r.tag
  let n := r.rows + kept
  let rb := t.rowBytes r.ncols
  let rest := bs.drop (n * rb)
  let maskLen := if t.isInt then ceilDiv (n * r.ncols) 8 else 0
  let mask := leNat (rest.take maskLen)
  let word := leNat ((rest.drop maskLen).take 4)
  let base := word % 2 ^ 20
  let rows := (chunks n rb (bs.take (n * rb))).map (t.readRow r.ncols base)
  let es := rows.flatMap (·.1)
  let above (i : Nat) : Bool := valid ≤ i && i < r.size
  let es := (withIndex 0 es).map fun (i, e) =>
    if above (if t.narrow && e.crumb.isSome then i / r.ncols * r.ncols + i % r.ncols / 32 * 32 else i) then Elem.bits 0
    else if t.isInt && mask.testBit i then
      match wordOrigin word with
      | .some c => Elem.poison c
      | .none => e
    else e
  let scales := (withIndex 0 (rows.flatMap (·.2))).map fun (i, x) =>
    if above (i / blocksOf r.ncols * r.ncols + i % blocksOf r.ncols * 32) then 0 else x
  { empty := false, tag := t, rows := r.rows, cols := r.ncols, elems := es, scales := scales,
    kept := kept, valid := valid, dirty := 0, arrived := 0, progress := r.rows }

/-- The bytes of a version's slot (R223). -/
def slotSize (r : ShapeRec) (kept : Nat) : Nat :=
  let n := r.rows + kept
  n * r.tag.rowBytes r.ncols + (if r.tag.isInt then ceilDiv (n * r.ncols) 8 else 0) +
    (if r.tag.isInt || r.tag.isHalf then 4 else 0)

/-- A mask from its slot. -/
def readMask (bs : List Byte) : MaskReg :=
  let n := field bs 0 4
  { n := n, fill := (field bs 4 1).testBit 0, bits := leNat ((bs.drop 8).take (ceilDiv n 8)) % 2 ^ n,
    poison := wordOrigin (field bs (8 + ceilDiv n 8) 4) }

/-- An arrived version from its slot (R223). -/
def readArrived (bs : List Byte) : Tile :=
  let r := ShapeRec.ofWord (BitVec.ofNat 64 (field bs 0 8))
  let v := field bs 8 4
  let t := readVersion r 0 v (bs.drop 64)
  if v = 0 then { t with empty := true, elems := [], scales := [] } else t

/-- A scalar register from its 16 bytes; a poisoned one holds zero (R118). -/
def readS (bs : List Byte) : SReg :=
  match wordOrigin (field bs 8 8) with
  | .some c => { val := 0, poison := .some c }
  | .none => { val := BitVec.ofNat 64 (field bs 0 8), poison := .none }

/-- A predicate from its 8 bytes; a poisoned one holds false (R120). -/
def readP (bs : List Byte) : PReg :=
  match wordOrigin (field bs 0 4) with
  | .some c => { val := false, poison := .some c }
  | .none => { val := (field bs 4 1).testBit 0, poison := .none }

/-- A program address from a member area: bits 1:0 are zero (R121, R206). -/
def readPc (v : Nat) : Word := BitVec.ofNat 64 v &&& ~~~3#64

/-- The control registers of a member area, their reserved bits zero (R8, R205, R206). -/
def readCsr (c : Nat → Nat) (nretpc : Nat) (caphead : Word) : Csr :=
  let w (i : Nat) : Word := BitVec.ofNat 64 (c i)
  { srseed := w 0, mfmt := w 1 &&& 0x7FF#64, poisoncfg := poisonCfg 0 (w 2), bypassth := w 3,
    trapvec := readPc (c 4), noticepc := readPc (c 5), estart := w 6 &&& 0xFFFFFFFF#64,
    trapcause := w 8 &&& 0x7FFF#64, trappc := w 9, traptile := w 10 &&& 0xFFFFFFFF#64,
    fltinfo := w 11 &&& 0x3FFFFFFFF#64, nretpc := readPc nretpc, caphead := caphead }

/-- A tile register from its 16 bytes, the records, and the area (R223). -/
def readTile (bs area : List Byte) (h : Vector ShapeRec 16) : TileReg :=
  let hd := field bs 0 8
  let bound : Option RecNo := if hd.testBit 32 then .some (BitVec.ofNat 4 (hd / 2 ^ 33)) else .none
  let kept := hd / 2 ^ 40 % 2048
  let r := h.toList.getD (hd / 2 ^ 33 % 16) ShapeRec.reset
  let ver := if hd.testBit 32 && !hd.testBit 38 then
      readVersion r kept (field bs 8 4) (area.drop (64 * (hd % 2 ^ 32)))
    else { Tile.none with dirty := 0 }
  let inbox := if hd.testBit 37 then .some (readArrived (area.drop (64 * field bs 12 4))) else .none
  { bound := bound, ver := ver, inbox := inbox, coming := 0 }

/-- The slot of a restored tile, as a later save to the same area compares it (R223). -/
def readSlot (i : Nat) (bs : List Byte) (t : TileReg) : Option (Nat × Nat × Nat) :=
  if t.bound.isSome && !t.ver.empty then
    let r : ShapeRec := { ShapeRec.reset with code := BitVec.ofNat 5 t.ver.tag.code,
                                              rowsM1 := BitVec.ofNat 11 (t.ver.rows - 1),
                                              cols := BitVec.ofNat 16 t.ver.cols }
    some (i, 64 * field bs 0 4, slotSize r t.ver.kept)
  else none

/-- PSTATE from its word; the level is the context's (R203). -/
def readPstate (v : Nat) (pl : Level) : Pstate :=
  { pl := pl, intrap := v.testBit 2, reissue := v.testBit 3, marble := v.testBit 4, notice := v.testBit 5,
    compat := v.testBit 6 }

/-- A stream queue at its restore (R343): a fill that was under way starts again at entry Q; the rest of the
operation is kept by the device. -/
def readQueue (bs : List Byte) (kept : StreamQueue) : StreamQueue :=
  let q := field bs 0 8
  let st := match QState.ofCode (field bs 28 4) with
    | .faulted => .filling
    | s => s
  { kept with st := st, desc := BitVec.ofNat 64 (field bs 8 8), src := BitVec.ofNat 64 (field bs 16 8),
              count := field bs 24 4, popped := q,
              filled := match st with
                | .filling => q
                | _ => kept.filled,
              slots := [], batch := .none }

/-- A block from the bytes of its member area, at its place (R223, R224). The load or store that REISSUE is to issue again
stands where its batch says (R201). -/
def restoreBlock (d : Dev) (id : BlockId) (place : Place) (h : Header) (pl : Level) (caphead area : Word)
    (bs : List Byte) : Block :=
  let now := d.cycle place.core
  let hs : Vector ShapeRec 16 := Vector.ofFn fun i => ShapeRec.ofWord (BitVec.ofNat 64 (field bs (0x280 + 8 * i.val) 8))
  let tb (i : Nat) : List Byte := (bs.drop (0x300 + 16 * i)).take 16
  let ts : Vector TileReg 32 := Vector.ofFn fun i => readTile (tb i.val) bs hs
  let left := field bs 0x18 8
  let ts0 := bs.drop h.x2
  let word (i : Nat) : AccWord :=
    { bits := BitVec.ofNat 32 (field ts0 (4 * i) 4),
      p := (field ts0 (2048 * h.tsRows + 64 * (i / 512) + i % 512 / 8) 1).testBit (i % 8) }
  let acc := (List.range (512 * h.tsRows)).foldl
    (fun a i => if word i = { bits := 0, p := false } then a else (i, word i) :: a) []
  let kept (n : Nat) : StreamQueue :=
    ((d.eng.fills.find? fun x => x.1 == id.key && x.2.1 == n).map (·.2.2)).getD StreamQueue.reset
  let b : Block := { Block.none with
    id := id, place := place, run := if left = 0 then .ready else .waiting,
    wait := if left = 0 then .none else .clocks (now + left),
    ps := readPstate (field bs (0x580 + 56) 8) pl,
    csr := readCsr (fun i => field bs (0x580 + 8 * i) 8) (field bs 0x10 8) caphead,
    pc := readPc (field bs 8 8),
    s := Vector.ofFn fun i => if i.val = 0 then SReg.reset else readS ((bs.drop (0x40 + 16 * i.val)).take 16),
    p := Vector.ofFn fun i =>
      if i.val = 0 then { val := true, poison := .none } else readP ((bs.drop (0x240 + 8 * i.val)).take 8),
    m := Vector.ofFn fun i =>
      if i.val = 0 then { n := 0, fill := true, bits := 0, poison := .none }
      else
        let e := field bs (0x500 + 16 * (i.val - 1)) 8
        if e.testBit 32 then readMask (bs.drop (64 * (e % 2 ^ 32))) else MaskReg.reset,
    h := hs, t := ts,
    scratch := (List.range h.scratch).foldl (fun m i => cellPut 0 m i (bs.getD (h.x0 + i) 0)) [],
    acc := acc.reverse,
    rp := field ts0 (2112 * h.tsRows) 8 % 2 ^ 11, rpAddr := BitVec.ofNat 64 (field ts0 (2112 * h.tsRows + 8) 8),
    queues := Vector.ofFn fun i => readQueue ((bs.drop (h.x3 + 32 * i.val)).take 32) (kept i.val),
    area := .some { base := area,
                    slots := (withIndex 0 ts.toList).filterMap fun (i, t) => readSlot i (tb i) t },
    lastIssue := d.clock }
  let b := b.restale b.effShare
  if b.ps.reissue then
    match d.fq.batches.find? fun x => x.owner == .block id.key with
    | some x =>
      let first := ((List.range b.m[7].n).find? fun e => b.m[7].bits.testBit e).getD 0
      let bb : BlockBatch := { id := x.id, fetch := false, elem := first, flt := b.csr.fltinfo, va := 0,
                               pc := x.pc }
      { b with parked := some bb, again := some x.pc }
    | none => { b with again := some (if b.ps.notice then b.csr.nretpc else b.pc) }
  else b

end Sys2Proof.Machine
end

