-- ==== Sys2Proof/Machine/Matrix.lean ====
section
/-! DEFINITION. The tile store and the matrix instructions (R72, R112, R113, R249 to R263). -/
namespace Sys2Proof.Machine

/-! ## Words of the tile store -/

/-- The words of a grant by 512 × row + column; those not listed are zero (R231, R249). -/
abbrev AccMap := List (Nat × AccWord)

/-- The number of word (i, j) of a region (R231). -/
def Region.word (g : Region) (i j : Nat) : Nat := 512 * (g.row + i) + g.col + j

/-- Every word of a region with its row and column, row-major. -/
def Region.words (g : Region) : List (Nat × Nat) :=
  (List.range g.rows).flatMap fun i => (List.range g.cols).map fun j => (i, j)

/-- A word as a value: poison, an FP32 whose poison-looking pattern is the canonical NaN, or an INT32
(R250). -/
def AccWord.val (w : AccWord) (int : Bool) : Val :=
  if w.p then .bad { origin := w.bits.extractLsb' 0 20, merged := w.bits.getLsbD 20 }
  else if int then .int w.bits.toInt
  else .num (Fmt.single.value w.bits.toNat)

/-- The word that holds a value (R250, R261): FP32 under RNE, or 32 wrapped bits. -/
def AccWord.of (v : Val) : AccWord :=
  match v with
  | .bad c => { bits := BitVec.ofNat 32 (Fmt.single.longPoison c), p := true }
  | .int n => { bits := BitVec.ofInt 32 n, p := false }
  | .num x => { bits := BitVec.ofNat 32 (Fmt.single.pack .rne x), p := false }

/-- Writes words (R250). -/
def writeWords (ws : List (Nat × AccWord)) : M Unit := modifyDev fun d => d.putWords ws

/-- The form 3 location of a word (R360). -/
def accLoc (k core : Nat) : Nat := k / 512 + 2 ^ 10 * (k % 512) + 2 ^ 19 * core

/-- Words that hold an uncorrectable error, in the order given, with their syndromes. -/
def Work.badWords (w : Work) (ks : List Nat) : List (Nat × Nat) :=
  if w.dev.unc.upsets = [] then []
  else ks.filterMap fun k =>
    (w.dev.unc.upsets.find? fun u => u.fatal && u.loc == w.dev.blk.place.accAt k).map fun u =>
      (k, u.syndrome.toNat)

/-- The entries and poison words that errors in words give (R251). -/
def Work.healWords (w : Work) (bad : List (Nat × Nat)) (count : Nat) (last : Crumb) :
    List (Nat × AccWord) × Work :=
  match bad with
  | [] => ([], w)
  | (k, syn) :: r =>
    let b := w.dev.blk
    if count < 32 then
      let (c, w) := w.crumb b.id.ctx { kind := 3, form := 3, loc := accLoc k b.place.core, syn := syn,
                                       pc := b.pc, engine := false, key := b.id.key }
      let (ws, w) := w.healWords r (count + 1) c
      ((k, AccWord.of (.bad c)) :: ws, w)
    else
      let (ws, w) := w.healWords r count last
      ((k, AccWord.of (.bad { last with merged := true })) :: ws, w)

/-- The errors of the words that an instruction reads are over, each with its error-log record (R215, R219). -/
def Work.endWords (w : Work) (ks : List Nat) : Work :=
  let locs := ks.map w.dev.blk.place.accAt
  (w.dev.unc.upsets.filter fun u => locs.contains u.loc).foldl (fun w u =>
    w.endCell u 2 (match u.loc with | .acc _ row _ => row | _ => 0)) w

/-- Meets the errors of the words that an instruction reads: a single-bit one is corrected, another makes the word
poison (R251). -/
def meetWords (ks : List Nat) : M Unit := do
  if (← getDev).unc.upsets = [] then pure ()
  else do
    let bad := (← get).badWords ks
    modify fun w => w.endWords ks
    let ws ← modifyGet fun w => w.healWords bad 0 { origin := 0, merged := false }
    writeWords ws

/-- Counts the steps of a product (R265, R376, event 7): `n` blocks of outputs over `k` positions, `kg` of them a step,
each run twice in Marble mode. -/
def countSteps (m n k kg : Nat) : M Unit := modifyDev fun d =>
  let steps := ceilDiv m 64 * ceilDiv n 64 * ceilDiv k kg
  d.countFor 7 (if d.blk.ps.marble then 2 * steps else steps)

/-- A word of the block's grant. -/
def Block.word (b : Block) (k : Nat) : AccWord := cellAt AccWord.zero b.acc k

/-- The region that a scalar names, inside the grant (R72, R263). -/
def regionOfReg (r : Reg) : M Region := do
  let b ← getBlk
  if regionOk (b.sv r) b.place.tsRows then return regionWord (b.sv r) else raise .accRange

/-! ## Products -/

/-- The K-group size of a pair of tags, and whether words are INT32 (R252). -/
def kGroup (a b : Tag) : Option (Nat × Bool) :=
  if a == .e2m1 && b == .e2m1 then some (32, false)
  else if a.narrow && b.narrow then some (16, false)
  else if a.isHalf && b.isHalf then some (8, false)
  else if a == .int8 && b == .int8 then some (16, true)
  else none

/-- The tag of a matrix type code (R252). -/
def matrixTag (code : Nat) : Tag :=
  match code with
  | 1 => .e2m1
  | 2 => .e3m2
  | 3 => .e2m3
  | 4 => .e4m3
  | 5 => .e5m2
  | 6 => .int8
  | 7 => .bf16
  | 8 => .fp16
  | _ => .none

/-- The pair of two tags under a type assertion (R61, R252). -/
def matrixPair (code : Nat) (a b : Tag) : M (Nat × Bool) := do
  if code != 0 && (matrixTag code != a || matrixTag code != b) then raise .typeState
  match kGroup a b with
  | some g => return g
  | none => raise .typeState

/-- The exact sum of one K-group; positions beyond K add +0 (R112). -/
def groupSum (kg : Nat) (ps : List Num) : Num :=
  match ps with
  | [] => .zero false
  | p :: r =>
    let s := r.foldl (Num.add .rne) p
    if ps.length < kg then s.add .rne (.zero false) else s

/-- acc of R112. -/
def accumulate (kg : Nat) (start : Num) (as bs : List Val) : Num :=
  let ps := List.zipWith (fun x y => x.toNum.mul y.toNum) as bs
  (chunks ps.length kg ps).foldl
    (fun acc g => Fmt.single.round .rne (acc.add .rne (groupSum kg g))) start

/-- An integer value. -/
def Val.toInt (v : Val) : Int :=
  match v with
  | .int n => n
  | _ => 0

/-- The sum of products of R113. -/
def dotInt (as bs : List Val) : Int := (List.zipWith (fun x y => x.toInt * y.toInt) as bs).sum

/-- One output before generated NaNs: its value, and whether a NaN in it is a generated one (R102, R254). -/
structure Output where
  val : Val
  fresh : Bool
  deriving DecidableEq, Repr

/-- One output word (R254). -/
def outWord (kg : Nat) (int : Bool) (as bs : List Val) (prior : Option Val) : Output :=
  let z := mergePoison (mergePoison (mergeVals as) (mergeVals bs)) (prior.bind (·.poison))
  match z with
  | some c => { val := .bad c, fresh := false }
  | none =>
    if int then { val := .int ((prior.map Val.toInt).getD 0 + dotInt as bs), fresh := false }
    else
      let start := (prior.map Val.toNum).getD (.zero false)
      let x := accumulate kg start as bs
      { val := .num x,
        fresh := x.isNan && !(as.any Val.isNan || bs.any Val.isNan || start.isNan) }

/-- The words of the outputs, with first-generated NaNs made poison (R102, R254). -/
def outputs (os : List (Nat × Output)) : M (List (Nat × AccWord)) := do
  let w ← get
  let b := w.dev.blk
  match if b.genNan then os.find? fun o => o.2.fresh else none with
  | none => return os.map fun (k, o) => (k, AccWord.of o.val)
  | some (k, _) => do
    let c ← modifyGet fun w => w.crumb b.id.ctx
      { kind := 5, form := 3, loc := accLoc k b.place.core, syn := 0, pc := b.pc, engine := false,
        key := b.id.key }
    return os.map fun (k, o) => (k, AccWord.of (if o.fresh then .bad c else o.val))

/-- The outputs of rows and columns of a region (R254). -/
def product (g : Region) (kg : Nat) (int acc : Bool) (a b : Array (List Val))
    (cells : List (Nat × Nat)) : M (List (Nat × AccWord)) := do
  if acc then meetWords (cells.map fun (i, j) => g.word i j)
  let k ← getBlk
  outputs (cells.map fun (i, j) =>
    let prior := if acc then some ((k.word (g.word i j)).val int) else none
    (g.word i j, outWord kg int (a.getD i []) (b.getD j []) prior))

/-- The rows of a tile's values. -/
def Block.rowVals (b : Block) (t : TileNo) (r : ShapeRec) : Array (List Val) :=
  (chunks r.rows r.ncols (b.vals t r)).toArray

/-- What MMA and MMAS check first (R53, R263, orders 1 and 2). -/
def matrixStart (d : Reg) (a b : TileNo) (code : Nat) :
    M (ShapeRec × ShapeRec × Nat × Bool × Region) := do
  let ra ← bound a
  let rb ← bound b
  let (kg, int) ← matrixPair code ra.tag rb.tag
  freshRecs [ra, rb]
  let g ← regionOfReg d
  return (ra, rb, kg, int, g)

/-- Every word of a region becomes poison (R253). -/
def poisonRegion (g : Region) (c : Crumb) : M Unit :=
  writeWords (g.words.map fun (i, j) => (g.word i j, AccWord.of (.bad c)))

/-- MMA (R253, R254). -/
def mma (d : Reg) (a b : TileNo) (m : MaskField) (code : Nat) (acc : Bool) : M Unit := do
  let (ra, rb, kg, int, g) ← matrixStart d a b code
  if ra.rows != g.rows || rb.rows != g.cols || ra.ncols != rb.ncols then raise .shapeMismatch
  let k ← getBlk
  if (k.rs d).poison.isSome then raise .poisonAddr
  let mask := k.rm_ m
  match mask.poison with
  | some c => poisonRegion g c
  | none =>
    let cells := g.words.filter fun x => mask.bit x.1
    countSteps ((List.range g.rows).filter mask.bit).length g.cols ra.ncols kg
    writeWords (← product g kg int acc (k.rowVals a ra) (k.rowVals b rb) cells)

/-- MMA (R253). -/
def execMma (d : Reg) (a b : TileNo) (m : MaskField) (t : BitVec 4) (x : BitVec 1) (s : State) :
    Host.Outcome State Fault Refusal :=
  run s true (mma d a b m t.toNat (x == 1))

/-- Expands a window of a compressed row: one value for each set bit, exact +0 elsewhere (R256). -/
def expandWindow (bits : List Bool) (vs : List Val) (zero : Val) : List Val :=
  match bits with
  | [] => []
  | true :: r =>
    match vs with
    | [] => zero :: expandWindow r [] zero
    | v :: ws => v :: expandWindow r ws zero
  | false :: r => zero :: expandWindow r vs zero

/-- a′ of R256, for one row. -/
def expandRow (bits : List Bool) (vs : List Val) (zero : Val) : List Val :=
  let ws := chunks bits.length 32 bits
  (List.zipWith (fun b v => expandWindow b v zero) ws (chunks ws.length 16 vs)).flatten

/-- The first window that holds more than 16 set bits (R255). -/
def fullWindow (k : Nat) (rows : List (List Bool)) : Option Nat :=
  ((withIndex 0 rows).flatMap fun (i, bs) =>
    (withIndex 0 (chunks bs.length 32 bs)).filterMap fun (w, c) =>
      if 16 < (c.filter id).length then some (i * k + 32 * w) else none).head?

/-- MMAS (R255, R256). -/
def mmas (d : Reg) (a b : TileNo) (m : MaskField) (code : Nat) (acc : Bool) : M Unit := do
  let (ra, rb, kg, int, g) ← matrixStart d a b code
  let kk := rb.ncols
  if ra.rows != g.rows || rb.rows != g.cols || ra.ncols != 16 * ceilDiv kk 32 then
    raise .shapeMismatch
  let k ← getBlk
  let mask := k.rm_ m
  if (k.rs d).poison.isSome || mask.poison.isSome then raise .poisonAddr
  if mask.n != g.rows * kk then raise .sparseMeta
  let rows := chunks g.rows kk (mask.select (g.rows * kk))
  match fullWindow kk rows with
  | some e => raiseAt .sparseMeta e
  | none => pure ()
  let zero : Val := if int then .int 0 else .num (.zero false)
  let packed := k.rowVals a ra
  let as := ((withIndex 0 rows).map fun (i, bs) => expandRow bs (packed.getD i []) zero).toArray
  countSteps g.rows g.cols kk (2 * kg)
  writeWords (← product g kg int acc as (k.rowVals b rb) g.words)

/-- MMAS (R255). -/
def execMmas (d : Reg) (a b : TileNo) (m : MaskField) (t : BitVec 4) (x : BitVec 1) (s : State) :
    Host.Outcome State Fault Refusal :=
  run s true (mmas d a b m t.toNat (x == 1))

/-! ## MMAV -/

/-- What MMAV streams: the tag, MFMT's placement of scales, rows and columns, the address of row 0 and the
stride (R257). -/
structure Stream where
  fmt : Mfmt
  rows : Nat
  cols : Nat
  base : Nat
  stride : Int
  deriving DecidableEq, Repr

/-- The streamed elements from row `lo` up to row `hi` (R257). -/
def Stream.sources (x : Stream) (lo hi : Nat) : List (Nat × Source) :=
  (List.range (hi - lo)).flatMap fun i =>
    let va := ((x.base + x.stride * (lo + i : Nat)) % 2 ^ 64).toNat
    (List.range x.cols).map fun j => ((lo + i) * x.cols + j, x.fmt.source va x.cols j)

/-- The value of a streamed element (R195, R252). -/
def Stream.val (x : Stream) (l : Loaded) : Val :=
  match l.poison with
  | some c => .bad c
  | none => elemVal x.fmt.enc l.scale (.bits l.pat)

/-- What the streamed reads leave in L2 (R258). -/
def Stream.residency (x : Stream) (b : Block) : Residency :=
  b.residency 0 ((x.rows - 1) * x.stride.natAbs + x.fmt.enc.rowBytes x.cols)

/-- The slice of ALD and AST: the lane group of the block's first lane (R262). -/
def Place.firstSlice (p : Place) : Nat := p.lane / 8

/-- The words that the streamed rows from `lo` up to `hi` complete (R254, R258, R259). -/
def streamRows (x : Stream) (pm : PageMap) (g : Region) (kg : Nat) (int acc streamB : Bool)
    (held : Array (List Val)) (lo hi : Nat) : M (List (Nat × AccWord)) := do
  let b ← getBlk
  let es ← readElems x.fmt 0 pm (fun _ => b.place.firstSlice) (x.residency b) (x.sources lo hi)
  let rows := chunks (hi - lo) x.cols (es.map fun e => x.val e.2)
  let arr := (List.replicate lo ([] : List Val) ++ rows).toArray
  let mine (r : Nat) : Bool := lo ≤ r && r < hi
  countSteps (if streamB then g.rows else hi - lo) (if streamB then hi - lo else g.cols) x.cols kg
  let cells := g.words.filter fun c => mine (if streamB then c.2 else c.1)
  if streamB then product g kg int acc held arr cells else product g kg int acc arr held cells

/-- MFMT's placement of scales, which is all that MMAV takes from it (R257). DESIGN CHOICE, log entry 97: an invalid one
raises TYPE_STATE beside the causes of R53, before SHAPE_STALE, since R263 names no place for it. -/
def streamFmt (t : Tag) : M Mfmt := do
  let v := (← getBlk).csr.mfmt
  if 1 < (v.extractLsb' 5 2).toNat then raise .typeState
  return { enc := t, trail := v.extractLsb' 5 2 == 1, rm := .rne, sat := false }

/-- MMAV (R257 to R259): what an earlier issue completed stands, so that no row is read twice. DESIGN CHOICE, log entry 98: the
limits of R254 on generated NaNs and of R195 and R251 on entries start afresh at each continuation. -/
def mmav (r : Reg) (t : TileNo) (c : PairNo) (streamB acc : Bool) (code : Nat) : M Unit := do
  modify Work.takeStop
  let _ ← gateTile
  let rt ← bound t
  let tag := matrixTag code
  let (kg, int) ← matrixPair 0 tag rt.tag
  let f ← streamFmt tag
  freshRecs [rt]
  let g ← regionOfReg r
  if rt.rows != (if streamB then g.rows else g.cols) then raise .shapeMismatch
  let b ← getBlk
  if (b.rs r).poison.isSome || (b.rs (PairNo.lo c)).poison.isSome || (b.rs (PairNo.hi c)).poison.isSome then
    raise .poisonAddr
  let x : Stream := { fmt := f, rows := if streamB then g.cols else g.rows, cols := rt.ncols,
                      base := (b.sv (PairNo.lo c)).toNat, stride := (b.sv (PairNo.hi c)).toInt }
  let lo := if b.rpAddr = b.pc then b.rp else 0
  if lo = 0 && b.rp != 0 then modifyBlk fun b => { b with rp := 0 }
  if x.base % tag.unit != 0 || x.stride % tag.unit != 0 then raise .addrAlign
  drainAcked
  let all := x.sources lo x.rows
  let pm ← reachAll .matrix .read all
  noBreach pm all
  let held := b.rowVals t rt
  match all.find? fun e => pm.faults e.2 != [] with
  | none => do
    writeWords (← streamRows x pm g kg int acc streamB held lo x.rows)
    modify Work.clearBatch
    modifyBlk fun b => { b with rp := 0 }
  | some (e, src) => do
    let hi := e / x.cols
    let words ← streamRows x pm g kg int acc streamB held lo hi
    modify fun w => w.blockBatch false ((pm.faults src).take 1) true hi b.csr.fltinfo
      (BitVec.ofNat 64 ((pm.faults src).headD 0))
    modifyBlk fun b => { b with stop := some { rows := hi, words := words, pc := b.pc } }
    stay

/-- MMAV (R257). -/
def execMmav (r : Reg) (b : TileNo) (p : PairNo) (sel x : BitVec 1) (t : BitVec 4) (s : State) :
    Host.Outcome State Fault Refusal :=
  run s true (mmav r b p (sel == 1) (x == 1) t.toNat)

/-! ## Accumulator moves -/

/-- AZERO (R260). -/
def azero (d : Reg) : M Unit := do
  let g ← regionOfReg d
  if ((← getBlk).rs d).poison.isSome then raise .poisonAddr
  writeWords (g.words.map fun (i, j) => (g.word i j, AccWord.zero))

/-- AZERO (R260). -/
def execAzero (d : Reg) (s : State) : Host.Outcome State Fault Refusal :=
  run s true (azero d)

/-- A tile of a region's shape (R260). -/
def regionTile (t : TileNo) (r : Reg) : M (ShapeRec × Region) := do
  let x ← bound t
  freshRecs [x]
  let g ← regionOfReg r
  if x.rows != g.rows || x.ncols != g.cols then raise .shapeMismatch
  if ((← getBlk).rs r).poison.isSome then raise .poisonAddr
  return (x, g)

/-- AMOV (R260, R261). -/
def amov (d : TileNo) (a : Reg) (m : MaskField) (rm : Nat) (sat : Bool) : M Unit := do
  let (r, g) ← regionTile d a
  let b ← getBlk
  needRows (r.storage b.place.width)
  match (b.rm_ m).poison with
  | some c => poisonTile d r c
  | none => do
    meetWords (g.words.map fun (i, j) => g.word i j)
    let b ← getBlk
    let round := Round.ofCode rm
    let cells := g.words.map fun (i, j) =>
      let v := (b.word (g.word i j)).val r.tag.isInt
      Cell.new v (!v.isNan && v.poison.isNone) round
    maskedWrite d r m round sat false cells

/-- AMOV (R260). -/
def execAmov (d : TileNo) (a : Reg) (m : MaskField) (r : Rm) (t : BitVec 1) (s : State) :
    Host.Outcome State Fault Refusal :=
  run s true (amov d a m r.toNat (t == 1))

/-- TAMOV (R260, R261). -/
def tamov (d : Reg) (a : TileNo) (m : MaskField) : M Unit := do
  let (r, g) ← regionTile a d
  let b ← getBlk
  let mask := b.rm_ m
  match mask.poison with
  | some c => poisonRegion g c
  | none =>
    let ws := List.zipWith (fun (i, j) v => (i * g.cols + j, g.word i j, AccWord.of v)) g.words
      (b.vals a r)
    writeWords ((ws.filter fun x => mask.bit x.1).map (·.2))

/-- TAMOV (R260). -/
def execTamov (d : Reg) (a : TileNo) (m : MaskField) (s : State) : Host.Outcome State Fault Refusal :=
  run s true (tamov d a m)

/-! ## ALD and AST -/

/-- The words of a region with where they lie in memory (R260, R262). -/
def accSources (g : Region) (base : Nat) (stride : Int) : List (Nat × Source) :=
  g.words.map fun (i, j) =>
    let va := ((base + stride * i + 4 * j) % 2 ^ 64).toNat
    (i * g.cols + j, { va := va, bytes := 4, shift := 0, scale := none, ranges := [(va, 4)] })

/-- The checks that ALD and AST share (R262, R263). -/
def accStart (d a b : Reg) (acc : Access) : M (Region × List (Nat × Source) × PageMap) := do
  gate
  let g ← regionOfReg d
  let k ← getBlk
  if (k.rs d).poison.isSome || (k.rs a).poison.isSome || (k.rs b).poison.isSome then
    raise .poisonAddr
  if k.sv a &&& 3 != 0 || k.sv b &&& 3 != 0 then raise .addrAlign
  let xs := accSources g (k.sv a).toNat (k.sv b).toInt
  let pm ← reachAll k.laneUnit acc xs
  noBreach pm xs
  return (g, xs, pm)

/-- Waits for the first page that does not translate (R198, R262). -/
def accPages (pm : PageMap) (xs : List (Nat × Source)) : M Unit :=
  match xs.find? fun x => pm.faults x.2 != [] with
  | some (e, x) => waitPage e x.va
  | none => pure ()

/-- What the accesses of ALD and AST leave in L2 (R262). -/
def Block.accResidency (b : Block) (g : Region) (stride : Reg) : Residency :=
  b.residency 0 ((g.rows - 1) * (b.sv stride).toInt.natAbs + 4 * g.cols)

/-- How ALD reads a word: its bits. -/
def wordFmt : Mfmt := { enc := .uint32, trail := false, rm := .rne, sat := false }

/-- ALD (R262). -/
def ald (d a b : Reg) : M Unit := do
  let (g, xs, pm) ← accStart d a b .read
  accPages pm xs
  let k ← getBlk
  let es ← readElems wordFmt 0 pm (fun _ => k.place.firstSlice) (k.accResidency g b) xs
  let ws := List.zipWith (fun (i, j) (e : Nat × Loaded) =>
    (g.word i j, match e.2.poison with
      | some c => AccWord.of (.bad c)
      | none => { bits := BitVec.ofNat 32 e.2.pat, p := false })) g.words es
  writeWords ws

/-- ALD (R260). -/
def execAld (d a b : Reg) (s : State) : Host.Outcome State Fault Refusal :=
  run s true (ald d a b)

/-- The cells of one stored word. -/
def wordCells (pa elem : Nat) (w : AccWord) (canon : Bool) : List StoreCell :=
  let v := if w.p && canon then Fmt.single.nanPat else w.bits.toNat
  (spread pa 4 v).map fun (a, x) =>
    { pa := a, byte := x, mask := 0xFF, poison := w.p && !canon, elem := elem }

/-- AST (R262). -/
def ast (d a b : Reg) : M Unit := do
  let (g, xs, pm) ← accStart d a b .write
  let w ← get
  let k := w.dev.blk
  let p := k.storePolicy
  let ks := g.words.map fun (i, j) => g.word i j
  let bad := w.badWords ks
  if p == .trap then
    match (withIndex 0 ks).find? fun x => (k.word x.2).p || bad.any (·.1 == x.2) with
    | some (e, _) => raiseAt .poisonStore e
    | none => pure ()
  accPages pm xs
  let stored (k : Block) : List (Nat × Nat × AccWord) :=
    List.zipWith (fun n (e : Nat × Source) => (e.1, pm.pa e.2.va, k.word n)) ks xs
  let apart := pm.order != .queued
  let pends (k : Block) : List Pend :=
    let raw := (stored k).flatMap fun (e, pa, v) => wordCells pa e v (p == .canon)
    pendsOf apart (k.accResidency g b).bypass (fun _ => k.place.firstSlice) (if apart then raw else settleCells raw)
  readyWrites 0 pm.order (pends k)
  meetWords ks
  let k ← getBlk
  let ws := stored k
  putWrites 0 pm.order (pends k)
  let lost := ws.filterMap fun (_, pa, v) => (v.val false).poison.map fun c => (pa, c)
  if p == .canon then
    match lost with
    | [] => pure ()
    | (pa, c) :: r =>
      canonRecord pa (r.foldl (fun a y => if y.2.origin.toNat < a.origin.toNat then y.2 else a) c)

/-- AST (R260). -/
def execAst (d a b : Reg) (s : State) : Host.Outcome State Fault Refusal :=
  run s true (ast d a b)

end Sys2Proof.Machine
end

