-- ==== Sys2Proof/Machine/Life.lean ====
section
/-! DEFINITION. Events in the life of a block: promotion, waking, notice, pre-emption, save, arrivals, performed
writes (R33, R37 to R39, R197, R199, R208, R220 to R222, R226, R259, R267). -/
namespace Sys2Proof.Machine

/-- Runs a computation of the block that issues inside an event; one that must wait changes nothing. -/
def Work.tryDo (w : Work) (m : M Unit) : Work :=
  match m w with
  | .ok _ w' => w'
  | .error _ _ => w

/-! ## Waiting -/

/-- BLOCK_PROMOTION (R33). -/
def Work.promote (w : Work) : Work :=
  let b := w.dev.blk
  if b.run == .ready && b.lastIssue + 64 ≤ w.dev.clock then
    { w with dev := { w.dev with blk := { b with promoted := true } } }
  else w

/-- What a block waits for has happened (R38). A word has been written where it reads differently, where its line
is poison, or where a peer may hold it. -/
def Work.holds (w : Work) (b : Block) : Bool :=
  match b.wait with
  | .none => true
  | .clocks _ => false
  | .tile t => (b.tile t).inbox.isSome
  | .tileLimit t _ _ => (b.tile t).inbox.isSome
  | .word pa old =>
    let pa := w.redirect pa
    regionOf pa == 3 || (w.badLine (lineOf pa)).isSome || w.le pa 8 != old ||
      heldState (metaState (w.meta (lineOf pa)))
  | .entry q =>
    let q := b.queue q
    q.slots != [] || q.st == .abandoned || q.st == .idle

/-- The block that issues returns to READY. -/
def Work.ready (w : Work) : Work :=
  { w with dev := { w.dev with blk := { w.dev.blk with run := .ready, wait := .none } } }

/-- BLOCK_WAKE (R38). -/
def Work.wake (w : Work) : Work :=
  let b := w.dev.blk
  if b.run == .waiting && w.holds b then w.ready else w

/-- WAIT_EXPIRY (R208). -/
def Work.waitExpire (w : Work) : Work :=
  let b := w.dev.blk
  match b.run, b.wait with
  | .waiting, .clocks t => if t ≤ w.dev.cycle b.place.core then w.ready else w
  | _, _ => w

/-- YIELD_EXPIRY (R208). -/
def Work.yieldExpire (w : Work) : Work :=
  let b := w.dev.blk
  if b.yieldUntil ≤ w.dev.clock then { w with dev := { w.dev with blk := { b with yieldUntil := 0 } } } else w

/-! ## Notice and pre-emption -/


/-- A block stands at an instruction boundary: nothing of its next instruction has acted, no read of a peer is on its way,
and no FENCE or TLBINV waits (R129, R211, R222, R306, R355). -/
def Dev.atBoundary (d : Dev) (b : Block) : Bool :=
  b.xfer.isNone && !b.fencing && d.link.reqs.all fun r =>
    r.by_ != some b.id.key || !((r.kind == .atomic && r.elem.isSome) || (r.kind == .read && r.slice != codeSlice))

/-- A block issues nothing more: pre-emption is due at its boundary, or its notice window is over (R39, R221, R222). -/
def Dev.halted (d : Dev) (b : Block) : Bool :=
  b.preempt.isSome && d.atBoundary b && (match b.window with
    | none => true
    | some t => t < d.cycle b.place.core)

/-- What is unwound before the block stops (R39, R201, R211): a fetch, the faulted stream of an MMAV up to its stop point,
and a batch that is no reissue's. -/
def Work.unwind (w : Work) : Work :=
  let w := w.takeStop
  let w := ({ w with dev := w.dev.dropReads }).clearBatch
  let b := w.dev.blk
  let wait := match b.wait with
    | .clocks t => Wait.clocks t
    | _ => .none
  { w with dev := { w.dev with blk := { b with recvtUntil := none, wait := wait } } }

/-- NOTICE_ENTRY (R38, R221, row 1). A block that is restored in its handler is there already: the window of the new
request starts, and the handler goes on; log entry 90. -/
def Work.noticeEntry (w : Work) : Work :=
  let b := w.dev.blk
  let due := (b.run == .ready || b.run == .waiting) && b.preempt.isSome && b.csr.noticepc != 0 && b.window.isNone
  let end_ := some (w.dev.cycle b.place.core + 20000)
  if !(due && w.dev.atBoundary b) then w
  else if b.ps.notice then { w with dev := { w.dev with blk := { b with window := end_ } } }
  else
    let w := w.unwind
    let b := w.dev.blk
    { w with dev := { w.dev with blk :=
      { b with run := .ready, csr := { b.csr with nretpc := b.pc }, ps := { b.ps with notice := true },
               pc := b.csr.noticepc, loop := none, flight := none, window := end_ } } }

/-- Issue stops: the block enters SAVING and resumes at its program counter (R38). -/
def Work.stopIssue (w : Work) : Work :=
  let w := w.unwind
  let b := w.dev.blk
  { w with dev := { w.dev with blk :=
    { b with run := .saving, loop := none, flight := none, window := none,
             preempt := b.preempt.map fun p => { p with resume := b.pc } } } }

/-- NOTICE_WINDOW_EXPIRY (R221, row 3). -/
def Work.windowExpire (w : Work) : Work :=
  let b := w.dev.blk
  match b.window with
  | none => w
  | some t =>
    if t ≤ w.dev.cycle b.place.core && (b.run == .ready || b.run == .waiting) && b.preempt.isSome &&
        w.dev.atBoundary b then w.stopIssue
    else w

/-- HARD_PREEMPTION (R222): a request with NOTICEPC = 0. -/
def Work.hardPreempt (w : Work) : Work :=
  let b := w.dev.blk
  if (b.run == .ready || b.run == .waiting) && b.preempt.isSome && b.window.isNone && b.csr.noticepc == 0 &&
      w.dev.atBoundary b then w.stopIssue
  else w

/-! ## Save -/

/-- The fill operations of a saved block keep their completion words in the device (R343). -/
def Dev.keepFills (d : Dev) (b : Block) : Dev :=
  let qs := ((withIndex 0 b.queues.toList).filter fun x => x.2.st != .idle).map fun (i, q) =>
    (b.id.key, i, { q with slots := [], batch := none })
  let gone := b.queues.toList.filterMap (·.batch)
  let d := { d with eng := { d.eng with fills := d.eng.fills ++ qs } }
  { d with fq := { d.fq with batches := d.fq.batches.filter fun x => !gone.contains x.id } }

/-- The gang's entry learns that one more member is saved (R334); as a candidate it waits from its last one on (R330). -/
def Launch.memberSaved (l : Launch) (gang m now : Nat) : Launch :=
  { l with saved := l.saved.map fun s =>
      if s.gang = gang then { s with members := s.members ++ [m], since := now } else s }

/-- A pending abort names the gang (R334). -/
def Dev.abortPending (d : Dev) (lid gang : Nat) : Bool :=
  d.lu.controls.any fun c => c.kind == 4 && c.lid == lid && c.gangs.contains gang

/-- The scratch segments of a block whose cells hold an uncorrectable error (R228). -/
def Dev.badSegs (d : Dev) (k : BlockKey) : List Nat :=
  d.unc.upsets.filterMap fun u => match u.loc with
    | .scratch k' seg => if u.fatal ∧ k' = k then some seg else none
    | _ => none

/-- The lines that a save writes; one with bytes of a scratch segment that cannot be read is written as poison (R195,
R228); log entry 13. -/
def Block.saveLines (b : Block) (h : Header) (p : Preempt) (now : Nat) (bad : List Nat) :
    List (Nat × List Byte × Bool) :=
  let from_ := p.area.toNat + h.x0
  ((b.saveImage h p.area p.resume now).flatMap fun (o, bs) =>
    linePieces (bs.length + 1) (p.area.toNat + o) bs).map fun (va, bs) =>
      (va, bs, bad.any fun g => from_ + 16 * g < va + bs.length && va < from_ + 16 * g + 16)

/-- The save engine has read the block's cells: errors there are met as any read meets them (R27, R215). -/
def Work.meetSaved (w : Work) : Work :=
  if w.dev.unc.upsets = [] then w
  else
    let w := w.tryDo (do
      meetRows ((List.range 32).map (BitVec.ofNat 5))
      meetWords (List.range (512 * w.dev.blk.place.tsRows)))
    let w := w.queuedUpsets.foldl Work.meetTile w
    match w.fileUpset with
    | none => w
    | some u => w.meetFile u

/-- The save engine writes the member area, the header in state SAVING first (R37, R220, R223). -/
def Work.saveBegin (w : Work) (l : Launch) (p : Preempt) : Work :=
  let w := w.meetSaved
  let b := w.dev.blk
  if b.run != .saving then w
  else match saveBytes (b.saveLines l.hdr p (w.dev.cycle b.place.core) (w.dev.badSegs b.id.key)) w with
  | .error _ w' => w'
  | .ok .fault w' => w'.kill .saveFault 0 p.resume 0 b.csr.fltinfo
  | .ok .done w' => { w' with dev := { w'.dev with blk := { w'.dev.blk with preempt := some { p with begun := true } } } }

/-- The save engine's last write, state SAVED; an abort that came meanwhile retires the block after it (R39, R220). -/
def Work.saveEnd (w : Work) (p : Preempt) : Work :=
  let b := w.dev.blk
  match saveBytes [(p.area.toNat, b.savedHeader, false)] w with
  | .error _ w' => w'
  | .ok .fault w' => w'.kill .saveFault 0 p.resume 0 b.csr.fltinfo
  | .ok .done w' =>
    if w'.dev.abortPending b.id.key.lid b.id.gang then w'.kill .abort 0 p.resume 0 b.csr.fltinfo
    else
      let d := ((w'.dev.keepFills b).dropCells b).onLaunch b.id.key.lid fun l =>
        l.memberSaved b.id.gang b.id.member w.dev.clock
      ({ w' with dev := { d with blk := Block.none } }).mirror b.place.core

/-- Nothing that has begun outside a saving block is still to reach it (R222, R337, R347). -/
def Dev.quietSave (d : Dev) : Bool :=
  let b := d.blk
  b.pend == [] && (d.unacked b.id.key).isEmpty && d.blocks.all fun x => (x.xfer.map (·.dest)) != some b.id.key

/-- SAVE_COMPLETE for the block that issues (R220, R222, R226): its writes are performed first, and transfers to it
arrive; a fault kills it with SAVE_FAULT. -/
def Work.saveComplete (w : Work) : Work :=
  let w := if w.dev.blk.run == .saving then w.drain else w
  let b := w.dev.blk
  match b.run, b.preempt, w.dev.launch b.id.key.lid with
  | .saving, some p, some l =>
    if !w.dev.quietSave then w else if p.begun then w.saveEnd p else w.saveBegin l p
  | _, _, _ => w

/-! ## Loads, stores, streams -/

/-- MMAV_STOP_POINT (R259). -/
def Work.stopPoint (w : Work) : Work := w.takeStop

/-- LOAD_REISSUE (R197): the answered block issues next. -/
def Work.reissueNow (w : Work) : Work :=
  let b := w.dev.blk
  match b.parked with
  | none => w
  | some bb =>
    if b.reissuing && (w.dev.answer bb.id).isSome then
      { w with dev := { w.dev with agenda := w.dev.agenda ++ [.issue b.id.key] } }
    else w

/-- LOAD_ARRIVAL (R44, R199): a row group is marked, and P counts the leading complete rows. -/
def Work.arriveGroup (w : Work) (t : TileNo) (g : Nat) : Work :=
  let b := w.dev.blk
  let v := (b.tile t).ver
  if v.empty || v.rows ≤ 8 * g then w
  else
    let bits := v.arrived ||| 2 ^ g
    let p := leadingRows v.rows bits
    let v := { v with arrived := bits, progress := if v.progress < p then p else v.progress }
    { w with dev := { w.dev with blk := b.setVer t v } }

/-- BLOCK_PROMOTION (R33). -/
def execBlockPromotion (k : BlockKey) (s : State) : Host.Outcome State Fault Refusal :=
  event s fun w => w.onBlock k Work.promote

/-- BLOCK_WAKE (R38). -/
def execBlockWake (k : BlockKey) (s : State) : Host.Outcome State Fault Refusal :=
  event s fun w => w.onBlock k Work.wake

/-- WAIT_EXPIRY (R208). -/
def execWaitExpiry (k : BlockKey) (s : State) : Host.Outcome State Fault Refusal :=
  event s fun w => w.onBlock k Work.waitExpire

/-- YIELD_EXPIRY (R208). -/
def execYieldExpiry (k : BlockKey) (s : State) : Host.Outcome State Fault Refusal :=
  event s fun w => w.onBlock k Work.yieldExpire

/-- NOTICE_ENTRY (R221). -/
def execNoticeEntry (k : BlockKey) (s : State) : Host.Outcome State Fault Refusal :=
  event s fun w => w.onBlock k Work.noticeEntry

/-- NOTICE_WINDOW_EXPIRY (R221). -/
def execNoticeWindowExpiry (k : BlockKey) (s : State) : Host.Outcome State Fault Refusal :=
  event s fun w => w.onBlock k Work.windowExpire

/-- HARD_PREEMPTION (R222). -/
def execHardPreemption (k : BlockKey) (s : State) : Host.Outcome State Fault Refusal :=
  event s fun w => w.onBlock k Work.hardPreempt

/-- SAVE_COMPLETE (R220). -/
def execSaveComplete (k : BlockKey) (s : State) : Host.Outcome State Fault Refusal :=
  event s fun w => w.onBlock k Work.saveComplete

/-- MMAV_STOP_POINT (R259). -/
def execMmavStopPoint (k : BlockKey) (s : State) : Host.Outcome State Fault Refusal :=
  event s fun w => w.onBlock k Work.stopPoint

/-- LOAD_REISSUE (R197). -/
def execLoadReissue (k : BlockKey) (s : State) : Host.Outcome State Fault Refusal :=
  event s fun w => w.onBlock k Work.reissueNow

/-- LOAD_ARRIVAL (R199). -/
def execLoadArrival (k : BlockKey) (t : TileNo) (g : Nat) (s : State) : Host.Outcome State Fault Refusal :=
  event s fun w => w.onBlock k fun w => w.arriveGroup t g

/-- WRITE_PERFORMED (R267). -/
def execWritePerformed (k : BlockKey) (slice : Nat) (s : State) : Host.Outcome State Fault Refusal :=
  event s fun w => w.onBlock k fun w => w.performSlice slice

end Sys2Proof.Machine
end

