-- ==== Sys2Proof/Machine/Schedule.lean ====
section
/-! DEFINITION. The dispatcher and the launch unit: placement, control records, launch completion, classes, energy,
thermal caps (R40, R41, R215, R330 to R334, R346, R347, R374, R391). -/
namespace Sys2Proof.Machine

/-! ## Gangs -/

/-- Blocks and gangs of a launch (R31). -/
def Launch.blocks (l : Launch) : Nat := l.dimX * l.dimY * l.dimZ
def Launch.gangs (l : Launch) : Nat := l.blocks / l.gangSize

/-- Some member of the gang is resident. -/
def Dev.gangResident (d : Dev) (lid g : Nat) : Bool :=
  d.blocks.any fun b => b.resident && b.id.key.lid == lid && b.id.gang == g

/-- The gang waits for its first placement (R37). -/
def Launch.created (l : Launch) (g : Nat) : Bool :=
  l.nextGang ≤ g && g < l.gangs && !l.skipped.contains g

/-- The gang's entry in memory, saved or on its way there. -/
def Launch.savedGang (l : Launch) (g : Nat) : Option SavedGang := l.saved.find? (·.gang == g)

/-- The gang is SAVED (R40): its entry holds members and none is resident. -/
def Dev.gangSaved (d : Dev) (l : Launch) (g : Nat) : Bool :=
  match l.savedGang g with
  | some s => s.members != [] && !d.gangResident l.lid g
  | none => false

/-- The gang has ended: every member has retired. -/
def Dev.gangRetired (d : Dev) (l : Launch) (g : Nat) : Bool :=
  !l.created g && !d.gangResident l.lid g && !d.gangSaved l g

/-! ## Room -/

/-- What a member needs (R331): its share, storage width, row grant, scratch and tile store rows. -/
structure Need where
  share : Nat
  width : Nat
  rows : Nat
  scratch : Nat
  tsRows : Nat
  hdrShare : Nat
  deriving DecidableEq, Repr

def Need.physRows (n : Need) : Nat := n.rows + scratchRows n.scratch n.width

/-- A header's need at a share (R142, R331). -/
def Header.need (h : Header) (share : Nat) : Need :=
  { share := share, width := shareWidth share, rows := h.grant, scratch := h.scratch, tsRows := h.tsRows,
    hdrShare := h.share }

/-- The places that are taken in a core. -/
def placesIn (ps : List Place) (core : Nat) : List Place := ps.filter (·.core == core)

/-- A place takes rows of a partition (R143, R230). -/
def Place.rowsIn (p : Place) (part : Nat) : Nat :=
  if p.width = 16384 || p.part = part then p.rows + scratchRows p.scratch p.width else 0

/-- A place counts as a block of a partition (R35). -/
def Place.inPart (p : Place) (part : Nat) : Bool := p.wide || p.part == part

/-- Lanes `lo` to `lo + n - 1` are free among places. -/
def lanesOpen (ps : List Place) (lo n : Nat) : Bool :=
  ps.all fun p => p.lane + p.share ≤ lo || lo + n ≤ p.lane

/-- The free starts of a share in a partition, ascending (R35, R331). -/
def openStarts (ps : List Place) (c : Core) (part share : Nat) : List Nat :=
  (c.starts part share).filter fun lo => lanesOpen ps lo share

/-- Free lanes of a partition (R331). -/
def freeLanes (ps : List Place) (c : Core) (part : Nat) : Nat :=
  ((List.range 32).filter fun i => lanesOpen ps (32 * part + i) 1 && c.lanesGood (32 * part + i) 1).length

/-- The partition holds one more block of the need (R17, R230, R331). -/
def partRoom (ps : List Place) (c : Core) (n : Need) (part : Nat) : Bool :=
  (ps.filter fun p => p.inPart part).length < 8 && (ps.map fun p => p.rowsIn part).sum + n.physRows ≤ 1536 &&
    (openStarts ps c part n.share) != []

/-- The lowest run of tile store rows that is free (R231). -/
def tsStart (ps : List Place) (rows : Nat) : Option Nat :=
  if rows = 0 then some 0
  else
    let held := ps.filter fun p => p.tsRows != 0
    let fits (x : Nat) : Bool := x + rows ≤ 1024 &&
      held.all fun p => p.tsBase + p.tsRows ≤ x || x + rows ≤ p.tsBase
    ((0 :: held.map fun p => p.tsBase + p.tsRows).filter fits).foldl (fun a x => match a with
      | none => some x
      | some y => some (Nat.min x y)) none

/-- The partition that takes a narrow member (R331): the fewest free lanes, then the lowest number. -/
def bestPart (ps : List Place) (c : Core) (n : Need) : Option Nat :=
  ((List.range 4).filter (partRoom ps c n)).foldl (fun a q => match a with
    | none => some q
    | some p => if freeLanes ps c q < freeLanes ps c p then some q else some p) none

/-- The lowest slot of a partition that no place holds. -/
def freeSlot (ps : List Place) (part : Nat) : Nat :=
  ((List.range 8).find? fun k => ps.all fun p => !(p.inPart part && p.slot == k)).getD 0

/-- The place of a member in a core (R331). -/
def Dev.placeIn (d : Dev) (all : List Place) (core : Nat) (n : Need) : Option Place :=
  let c := d.core core
  let ps := placesIn all core
  let base : Place :=
    { core := core, part := 0, lane := 0, slot := 0, share := n.share, width := n.width, rows := n.rows,
      tsBase := 0, tsRows := n.tsRows, scratch := n.scratch, hdrShare := n.hdrShare }
  if !c.live then none
  else if n.share = 128 then
    if ps = [] && c.fenced = 0 && n.physRows ≤ 1536 && n.tsRows ≤ 1024 then some base else none
  else
    match tsStart ps n.tsRows, bestPart ps c n with
    | some ts, some q =>
      some { base with part := q, lane := (openStarts ps c q n.share).headD (32 * q), slot := freeSlot ps q,
                       tsBase := ts }
    | _, _ => none

/-- The place of a member in a cluster: the lowest core with room (R331). -/
def Dev.placeMember (d : Dev) (all : List Place) (cl : Nat) (n : Need) : Option Place :=
  (List.range 8).foldl (fun a i => match a with
    | some p => some p
    | none => d.placeIn all (8 * cl + i) n) none

/-- The places of the members of a gang in one cluster, in member order. -/
def Dev.placeAll (d : Dev) (all : List Place) (cl : Nat) (ns : List Need) : Option (List Place) :=
  match ns with
  | [] => some []
  | n :: r =>
    match d.placeMember all cl n with
    | none => none
    | some p => (d.placeAll (p :: all) cl r).map (p :: ·)

/-- The places of a gang in the lowest cluster that holds every member (R331). -/
def Dev.placeGangAt (d : Dev) (all : List Place) (ns : List Need) : Option (List Place) :=
  (List.range clusters).foldl (fun a cl => match a with
    | some ps => some ps
    | none => d.placeAll all cl ns) none

/-- The places that resident blocks hold. -/
def Dev.places (d : Dev) : List Place := (d.blocks.filter (·.resident)).map (·.place)

/-! ## New blocks -/

/-- The identity of a launch's block (R31, R206, R348). -/
def Launch.blockId (l : Launch) (c : Context) (lin : Nat) : BlockId :=
  { key := { lid := l.lid, lin := lin }, x := lin % l.dimX, y := lin / l.dimX % l.dimY,
    z := lin / (l.dimX * l.dimY), gang := lin / l.gangSize, member := lin % l.gangSize,
    gangSize := l.gangSize, ctx := l.ctx, asid := c.asid, fn := l.fn, root := c.root }

/-- A block at its creation (R117, R203, R205, R325, R348). -/
def Launch.newBlock (l : Launch) (c : Context) (lin : Nat) (p : Place) (clock : Nat) : Block :=
  { Block.none with
    id := l.blockId c lin, place := p, run := .ready,
    ps := { Pstate.reset with pl := c.level, compat := l.hdr.compat },
    csr := { Csr.reset with srseed := l.hdr.srseed, poisoncfg := BitVec.ofNat 64 l.hdr.poison,
                            caphead := c.caphead },
    pc := l.hdr.entry, lastIssue := clock }

/-- A placement writes every word of the tile store grant: errors in their cells are over (R249, R251). -/
def Dev.freshWords (d : Dev) (p : Place) : Dev :=
  if d.unc.upsets = [] then d
  else { d with unc := { d.unc with upsets := d.unc.upsets.filter fun u => match u.loc with
    | .acc core row _ => core != p.core || row < p.tsBase || p.tsBase + p.tsRows ≤ row
    | _ => true } }

/-- Adds resident blocks and writes the mirrors of their cores (R357). -/
def Work.addBlocks (w : Work) (bs : List Block) : Work :=
  let d := bs.foldl (fun d b => d.freshWords b.place) w.dev
  let w := { w with dev := { d with others := d.others ++ bs } }
  ((bs.map (·.place.core)).eraseDups).foldl Work.mirror w

/-- A placement or restore gives a context the initial LOGBASE of its descriptor where that has changed (R206, R348). -/
def Dev.openLog (d : Dev) (ctx : Nat) (c : Context) : Dev :=
  let v := c.logbase &&& 0xFFFFFFFFFFFFF01F#64
  if cellAt 0 d.logInit ctx = v then d
  else { d with logbase := cellPut 0 d.logbase ctx v, logInit := cellPut 0 d.logInit ctx v }

/-- Places new gangs of a launch, one after another; none where one does not fit. -/
def Dev.placeGangs (d : Dev) (all : List Place) (h : Header) (size : Nat) (gs : List Nat) :
    Option (List (Nat × List Place)) :=
  match gs with
  | [] => some []
  | g :: r =>
    match d.placeGangAt all (List.replicate size (h.need h.share)) with
    | none => none
    | some ps => (d.placeGangs (ps ++ all) h size r).map ((g, ps) :: ·)

/-- The gangs that the launch's next placement takes: one, or all of a co-resident launch (R330). -/
def Launch.nextGangs (l : Launch) : List Nat :=
  let open_ := (List.range l.gangs).filter l.created
  if l.coresident then open_ else open_.take 1

/-- Places the next new gang of a launch, if it fits (R331); a context that has become invalid takes none. -/
def Work.placeNew (w : Work) (l : Launch) : Option Work :=
  match w.context l.ctx, w.dev.placeGangs w.dev.places l.hdr l.gangSize l.nextGangs with
  | some c, some gs =>
    let blocks := gs.flatMap fun (g, ps) => (withIndex 0 ps).map fun (m, p) =>
      l.newBlock c (g * l.gangSize + m) p w.dev.clock
    let last := (gs.map (·.1)).foldl Nat.max 0
    let d := (w.dev.openLog l.ctx c).onLaunch l.lid fun l => { l with nextGang := last + 1 }
    some (({ w with dev := d }).addBlocks blocks)
  | _, _ => none

/-! ## Restores -/

/-- The agent that reads a member area: the launch's context on a core. -/
def Launch.saveAgent (l : Launch) (c : Context) (core : Nat) : Block :=
  agentBlock 0 { l.blockId c 0 with key := { lid := 2 ^ 67 + l.lid, lin := 0 } } core .super 0

/-- What a placement reads of a member area (R223, R331): W_min, the saved share, Marble mode. -/
structure AreaHead where
  wMin : Nat
  share : Nat
  marble : Bool
  deriving DecidableEq, Repr

def areaHead (bs : List Byte) : AreaHead :=
  { wMin := field bs 1 1, share := field bs 0x22 1, marble := (field bs (0x580 + 56) 1).testBit 4 }

/-- The restore shares of R324. -/
def restoreShare (code : Nat) : Option Nat :=
  match code with
  | 1 => some 4
  | 2 => some 8
  | 3 => some 16
  | 4 => some 32
  | 5 => some 128
  | _ => none

/-- The share that a restored member is placed at (R224, R331). -/
def restoredShare (want : Nat) (a : AreaHead) : Nat := Nat.max ((restoreShare want).getD a.share) a.wMin

/-- How reading the areas of a gang went: each member with its area's address and bytes. -/
inductive AreasRead where
  | all (xs : List (Nat × Word × List Byte))
  | bad
  deriving DecidableEq, Repr

/-- The bytes of a member area in which what a placement asks for stands. -/
def headBytes : Nat := 0x5C0

/-- Reads `n` bytes of a member's area (R220, R335). -/
def readArea (l : Launch) (s : SavedGang) (m n : Nat) : M (Option (Word × List Byte)) := do
  let a := memberArea s.area s.whole s.gang l.gangSize m l.hdr
  return (← saveRead (n + 1) a.toNat n).map fun bs => (a, bs)

/-- Reads the heads of the member areas of a gang. -/
def readHeads (l : Launch) (s : SavedGang) (ms : List Nat) : M (Option (List AreaHead)) := do
  let xs ← ms.mapM fun m => readArea l s m headBytes
  return xs.mapM fun x => x.map fun y => areaHead y.2

/-- A member that is read: its index, its area and the bytes of it. -/
abbrev MemberRead := Nat × Word × List Byte

/-- Reads the member areas of a gang, each through the unit of the core on which the member is to stand (R16, R220): none
where the save engine must wait. -/
def Work.readAreas (w : Work) (l : Launch) (c : Context) (s : SavedGang) (ms : List (Nat × Nat)) :
    Option AreasRead × Work :=
  match ms with
  | [] => (some (.all []), w)
  | (m, core) :: r =>
    match w.actAs (l.saveAgent c core) (readArea l s m (l.hdr.x3 + 128)) with
    | (none, w) => (none, w)
    | (some none, w) => (some .bad, w)
    | (some (some (a, bs)), w) =>
      match w.readAreas l c s r with
      | (some (.all xs), w) => (some (.all ((m, a, bs) :: xs)), w)
      | (x, w) => (x, w)

/-- The slots of a saved member fit in G under a storage width (R224). -/
def Block.slotsFit (b : Block) : Bool := b.rowsUsed ≤ b.place.rows

/-- The fills of saved members that retire stop (R41, R343). -/
def Dev.endFills (d : Dev) (lid : Nat) (ks : List BlockKey) : Dev :=
  let d := (d.eng.fills.filter fun x => ks.contains x.1).foldl (fun d x => d.stopFill lid x.2.2) d
  { d with eng := { d.eng with fills := d.eng.fills.filter fun x => !ks.contains x.1 } }

/-- The batches of blocks that are gone are closed. -/
def Dev.endBatches (d : Dev) (ks : List BlockKey) : Dev :=
  { d with fq := { d.fq with batches := d.fq.batches.filter fun x => match x.owner with
    | .block k => !ks.contains k
    | _ => true } }

/-- The keys of a gang's saved members. -/
def Launch.savedKeys (l : Launch) (s : SavedGang) : List BlockKey :=
  s.members.map fun m => { lid := l.lid, lin := s.gang * l.gangSize + m }

/-- A restore that met a fault, a breach or an error kills every member of the gang (R220). -/
def Work.failRestore (w : Work) (l : Launch) (c : Context) (s : SavedGang) : Work :=
  let rec_ (m : Nat) : Rec :=
    let b := { Block.none with id := l.blockId c (s.gang * l.gangSize + m) }
    b.killRec (Cause.number .saveFault) 0 0 0
  let w := s.members.foldl (fun w m => w.sendRec l.fn (rec_ m)) w
  let d := (w.dev.endFills l.lid (l.savedKeys s)).endBatches (l.savedKeys s)
  { w with dev := d.onLaunch l.lid fun l =>
      { l with saved := l.saved.filter (·.gang != s.gang), retired := l.retired + s.members.length,
               killed := true } }

/-- The fills of a restored block are its own again (R343). -/
def Dev.takeFills (d : Dev) (ks : List BlockKey) : Dev :=
  { d with eng := { d.eng with fills := d.eng.fills.filter fun x => !ks.contains x.1 } }

/-- Places restored members with the bytes of their areas (R331), if their slots fit (R224). -/
def Work.placeRestored (w : Work) (l : Launch) (c : Context) (s : SavedGang) (xs : List MemberRead) (ps : List Place) :
    Option Work :=
  let blocks := (xs.zip ps).map fun ((m, a, bs), p) =>
    restoreBlock w.dev (l.blockId c (s.gang * l.gangSize + m)) p l.hdr c.level c.caphead a bs
  if blocks.all (·.slotsFit) then
    let d := ((w.dev.openLog l.ctx c).takeFills (blocks.map (·.id.key))).onLaunch l.lid fun l =>
      { l with saved := l.saved.filter (·.gang != s.gang) }
    some (({ w with dev := d }).addBlocks blocks)
  else none

/-- The members of a saved gang in member-index order (R331). -/
def SavedGang.order (s : SavedGang) (gangSize : Nat) : List Nat := (List.range gangSize).filter s.members.contains

/-- Restores a gang, if it fits: none where it is passed over; the save engine may have to wait. The heads of the areas
are read through core 0, since the place depends on them; log entry 91. -/
def Work.placeSaved (w : Work) (l : Launch) (s : SavedGang) (want : Nat) : Option Work :=
  match w.context l.ctx with
  | none => none
  | some c =>
    let ms := s.order l.gangSize
    match w.actAs (l.saveAgent c 0) (readHeads l s ms) with
    | (none, w') => some w'
    | (some none, w') => some (w'.failRestore l c s)
    | (some (some hs), w') =>
      match w'.dev.placeGangAt w'.dev.places (hs.map fun a => l.hdr.need (restoredShare want a)) with
      | none => none
      | some ps =>
        match w'.readAreas l c s (ms.zip (ps.map (·.core))) with
        | (none, w') => some w'
        | (some .bad, w') => some (w'.failRestore l c s)
        | (some (.all xs), w') => w'.placeRestored l c s xs ps

/-! ## Placement -/

/-- A candidate of R330: a new gang, or a saved one. -/
structure Candidate where
  lid : Nat
  cls : Nat
  saved : Option Nat
  first : Bool
  reserving : Bool
  deriving DecidableEq, Repr

/-- An entry among entries in ascending gang number. -/
def SavedGang.insert (s : SavedGang) (ss : List SavedGang) : List SavedGang :=
  match ss with
  | [] => [s]
  | x :: r => if s.gang ≤ x.gang then s :: x :: r else x :: s.insert r

/-- The candidates of a launch, restores in ascending gang number before the new gang (R330). -/
def Dev.candidatesOf (d : Dev) (l : Launch) : List Candidate :=
  let named := (l.saved.filter fun s => s.want.isSome && d.gangSaved l s.gang).foldr SavedGang.insert []
  let saved := named.map fun s =>
    { lid := l.lid, cls := l.cls, saved := some s.gang, first := s.first,
      reserving := l.coresident || s.waited : Candidate }
  let new := if l.nextGangs = [] then [] else
    [({ lid := l.lid, cls := l.cls, saved := none, first := false,
        reserving := l.coresident || l.waited } : Candidate)]
  saved ++ new

/-- The candidates in order (R330, R347): class, restores before new gangs, acceptance. -/
def Dev.candidates (d : Dev) : List Candidate :=
  let all := d.lu.launches.flatMap d.candidatesOf
  let ofClass (c : Nat) : List Candidate :=
    (all.filter fun x => !x.first && x.cls == c && x.saved.isSome) ++
      all.filter fun x => !x.first && x.cls == c && x.saved.isNone
  (all.filter (·.first)) ++ (List.range 8).flatMap ofClass

/-- Tries one candidate. -/
def Work.tryCandidate (w : Work) (c : Candidate) : Option Work :=
  match w.dev.launch c.lid with
  | none => none
  | some l =>
    match c.saved with
    | none => w.placeNew l
    | some g =>
      match l.savedGang g with
      | none => none
      | some s => w.placeSaved l s (s.want.getD 0)

/-- The first candidate that fits is placed; behind a reserving one that does not fit none is (R330). -/
def Work.placeFirst (w : Work) (cs : List Candidate) : Work :=
  match cs with
  | [] => w
  | c :: r =>
    match w.tryCandidate c with
    | some w' => w'
    | none => if c.reserving then w else w.placeFirst r

/-- PLACE_GANG (R331). -/
def execPlaceGang (s : State) : Host.Outcome State Fault Refusal :=
  event s fun w => w.placeFirst w.dev.candidates

/-- The clocks after which a candidate that waits is reserving (R330). -/
def longWait : Nat := 1000000

/-- CANDIDATE_WAIT_EXPIRY (R330): the `c`-th candidate in order has waited 1,000,000 clocks and becomes reserving. -/
def Work.expireCandidate (w : Work) (c : Nat) : Work :=
  let due (since : Nat) : Bool := since + longWait ≤ w.dev.clock
  match w.dev.candidates[c]? with
  | none => w
  | some x =>
    { w with dev := w.dev.onLaunch x.lid fun l =>
        match x.saved with
        | none => { l with waited := l.waited || due l.since }
        | some g => { l with saved := l.saved.map fun s =>
            if s.gang = g then { s with waited := s.waited || due s.since } else s } }

/-- CANDIDATE_WAIT_EXPIRY (R330). -/
def execCandidateWaitExpiry (c : Nat) (s : State) : Host.Outcome State Fault Refusal :=
  event s fun w => w.expireCandidate c

/-! ## Launch completion -/

/-- Every block of the launch has retired, no engine operation of theirs runs, and their writes are performed and
acknowledged, as the release of the done word asks (R41, R296, R346). -/
def Dev.finished (d : Dev) (l : Launch) : Bool :=
  l.blocks ≤ l.retired && (d.blocks.all fun b => b.id.key.lid != l.lid || (b.pend == [] && (d.unacked b.id.key).isEmpty)) &&
    (d.eng.ops.all fun o => o.who.key.lid != l.lid) &&
    (d.eng.owed.all fun x => x.1 != l.lid) && d.eng.graphs.all fun g => g.who.key.lid != l.lid

/-- LAUNCH_COMPLETION (R346). -/
def Work.launchCompletion (w : Work) (lid : Nat) : Work :=
  match w.dev.launch lid with
  | none => w
  | some l =>
    if w.dev.finished l then
      let (put, w) := w.bumpNamed l.done l.killed
      if put then
        let r : Rec := { deviceRec .launchDone (natLe 1 (if l.killed then 1 else 0)) with
                         lid := lid, ctxid := w.ctxidOf l.ctx }
        let w := if l.notify then w.sendRec l.fn r else w
        { w with dev := { w.dev with lu := { w.dev.lu with
            launches := w.dev.lu.launches.filter (·.lid != lid) } } }
      else w
    else w

/-- LAUNCH_COMPLETION (R346). -/
def execLaunchCompletion (lid : Nat) (s : State) : Host.Outcome State Fault Refusal :=
  event s fun w => w.launchCompletion lid

/-! ## Control records -/

/-- The fields of a control record (R324). -/
structure ControlRec where
  kind : Nat
  share : Nat
  gang : Nat
  lid : Nat
  area : Word
  done : Nat
  deriving DecidableEq, Repr

def controlRec (bs : List Byte) : ControlRec :=
  { kind := recordKind bs, share := field bs 1 1 % 8, gang := field bs 4 4, lid := field bs 8 8,
    area := BitVec.ofNat 64 (field bs 16 8), done := field bs 24 8 }

/-- The record names every gang (R324). -/
def ControlRec.every (r : ControlRec) : Bool := r.gang == 0xFFFFFFFF

/-- The record's reserved fields are zero and its share is a legal code (R324). -/
def controlOk (bs : List Byte) : Bool :=
  let r := controlRec bs
  field bs 0 1 < 16 && (if r.kind = 3 then field bs 1 1 ≤ 5 else field bs 1 1 == 0) && zeros bs 2 2 &&
    (if r.kind = 4 then zeros bs 16 8 else r.area.extractLsb' 0 12 == 0) && zeros bs 32 32

/-- The gangs that a record names. -/
def ControlRec.named (r : ControlRec) (l : Launch) : List Nat :=
  if r.every then List.range l.gangs else [r.gang]

/-- The gang is SAVED or SAVING (R334): some member is saved, or its save has begun. -/
def Dev.gangBound (d : Dev) (l : Launch) (g : Nat) : Bool :=
  ((l.savedGang g).map fun s => s.members != []).getD false ||
    d.blocks.any fun b => b.run == .saving && b.id.key.lid == l.lid && b.id.gang == g

/-- A restore finds nothing to restore (R334). -/
def Dev.nothingSaved (d : Dev) (l : Launch) (gs : List Nat) : Bool := gs.all fun g => !d.gangBound l g

/-- The record is accepted (R324, R326, R334, R381): the launch is one of the function that owns the queue, log entry 99. -/
def Dev.controlAccepted (d : Dev) (q : QueueDesc) (bs : List Byte) : Option Launch :=
  let r := controlRec bs
  match d.launch r.lid with
  | none => none
  | some l =>
    if q.controls && q.fn == l.fn && controlOk bs && (r.every || r.gang < l.gangs) &&
        !(r.kind == 3 && d.nothingSaved l (r.named l)) then some l
    else none

/-- A member takes the pre-emption request (R38, R39): a second one in NOTICE or SAVING is ignored. -/
def Block.request (b : Block) (r : ControlRec) (l : Launch) (gs : List Nat) : Block :=
  if b.resident && b.id.key.lid == l.lid && gs.contains b.id.gang && b.preempt.isNone &&
      b.run != .saving then
    let area := memberArea r.area r.every b.id.gang l.gangSize b.id.member l.hdr
    { b with preempt := some { area := area, resume := 0, begun := false } }
  else b

/-- Kind 2 (R334). -/
def Dev.preemptGangs (d : Dev) (r : ControlRec) (l : Launch) (gs : List Nat) : Dev :=
  let gs := gs.filter fun g => d.gangResident l.lid g && (l.savedGang g).isNone
  let d := { d with blk := d.blk.request r l gs, others := d.others.map fun (b : Block) => b.request r l gs }
  let entry (g : Nat) : SavedGang :=
    { gang := g, members := [], area := r.area, whole := r.every, want := none, first := false,
      since := 0, waited := false }
  d.onLaunch l.lid fun l => { l with saved := l.saved ++ gs.map entry }

/-- Kind 3 (R334): a gang still SAVING becomes a candidate once it is SAVED. -/
def Dev.restoreGangs (d : Dev) (r : ControlRec) (l : Launch) (gs : List Nat) : Dev :=
  let ask (s : SavedGang) : SavedGang :=
    if gs.contains s.gang then { s with want := some r.share, area := r.area, whole := r.every, since := d.clock } else s
  d.onLaunch l.lid fun l => { l with saved := l.saved.map ask }

/-- Kills the resident members of gangs whose save is not under way (R39, R334). -/
def Work.abortResident (w : Work) (ks : List BlockKey) : Work :=
  ks.foldl (fun w k => w.onBlock k fun w =>
    let b := w.dev.blk
    if b.resident && b.run != .saving then w.kill .abort 0 b.pc 0 b.csr.fltinfo else w) w

/-- Kind 4 (R334): CREATED and SAVED members retire, resident ones are killed. -/
def Work.abortGangs (w : Work) (l : Launch) (gs : List Nat) : Work :=
  let new := gs.filter l.created
  let saved := l.saved.filter fun s => gs.contains s.gang && w.dev.gangSaved l s.gang
  let gone := saved.flatMap l.savedKeys
  let d := ((w.dev.endFills l.lid gone).endBatches gone).onLaunch l.lid fun l =>
    { l with skipped := l.skipped ++ new, saved := l.saved.filter fun s => !saved.contains s,
             retired := l.retired + new.length * l.gangSize + gone.length,
             killed := l.killed || new != [] || gone != [] }
  let keys := (d.blocks.filter fun b => b.resident && b.id.key.lid == l.lid && gs.contains b.id.gang).map
    (·.id.key)
  ({ w with dev := d }).abortResident keys

/-- The gangs that a record acts on: of a restore, those that are SAVED or SAVING (R334). -/
def ControlRec.actsOn (r : ControlRec) (d : Dev) (l : Launch) : List Nat :=
  (r.named l).filter fun g =>
    match r.kind with
    | 2 => d.gangResident l.lid g
    | 3 => d.gangBound l g
    | _ => true

/-- Acts on an accepted control record (R334). -/
def Work.control (w : Work) (r : ControlRec) (l : Launch) : Work :=
  let gs := r.actsOn w.dev l
  let w := match r.kind with
    | 2 => { w with dev := w.dev.preemptGangs r l gs }
    | 3 => { w with dev := w.dev.restoreGangs r l gs }
    | _ => w.abortGangs l gs
  let c : Control := { kind := r.kind, lid := l.lid, gangs := gs, done := wordNamed r.done }
  { w with dev := { w.dev with lu := { w.dev.lu with controls := w.dev.lu.controls ++ [c] } } }

/-- Reads the next record of a queue if it is a control record of kind `k` (R323, R334). -/
def Work.controlRecord (w : Work) (q k : Nat) : Work :=
  match w.nextRecord q with
  | none => w
  | some (d, cons, bs) =>
    if recordKind bs != k then w
    else
      let w := w.consume q d cons
      match w.dev.controlAccepted d bs with
      | none => w.reject d q cons 1 none
      | some l => w.control (controlRec bs) l

/-- PREEMPT_RECORD (R334). -/
def execPreemptRecord (q : Nat) (s : State) : Host.Outcome State Fault Refusal :=
  event s fun w => w.controlRecord q 2

/-- RESTORE_RECORD (R334). -/
def execRestoreRecord (q : Nat) (s : State) : Host.Outcome State Fault Refusal :=
  event s fun w => w.controlRecord q 3

/-- ABORT_RECORD (R334). -/
def execAbortRecord (q : Nat) (s : State) : Host.Outcome State Fault Refusal :=
  event s fun w => w.controlRecord q 4

/-- A gang has reached the state that a control record asks for (R334). -/
def Dev.controlMet (d : Dev) (c : Control) : Bool :=
  match d.launch c.lid with
  | none => true
  | some l => c.gangs.all fun g =>
    match c.kind with
    | 2 => !d.gangResident l.lid g
    | 3 => ((l.savedGang g).isNone && d.gangResident l.lid g) || d.gangRetired l g
    | _ => d.gangRetired l g

/-- The saved members of gangs that an abort waited for retire (R39, R334). -/
def Work.lateAbort (w : Work) (c : Control) : Work :=
  match c.kind, w.dev.launch c.lid with
  | 4, some l => w.abortGangs l (c.gangs.filter fun g => w.dev.gangSaved l g)
  | _, _ => w

/-- Done words of control records whose gangs have got there take +1 (R334). -/
def Work.settleControls (w : Work) : Work :=
  w.dev.lu.controls.foldl (fun w c =>
    let w := w.lateAbort c
    if w.dev.controlMet c then
      let (put, w) := w.bumpNamed c.done false
      if put then { w with dev := { w.dev with lu := { w.dev.lu with
        controls := w.dev.lu.controls.erase c } } } else w
    else w) w

/-- An entry of a gang of which no member came to be saved is empty (R334). -/
def Dev.tidySaved (d : Dev) : Dev :=
  { d with lu := { d.lu with launches := d.lu.launches.map fun l =>
      { l with saved := l.saved.filter fun s => s.members != [] || d.gangResident l.lid s.gang } } }

/-! ## Energy and heat -/

/-- A launch after a charge of `c` microjoules (R332, R374). -/
def Launch.charge (l : Launch) (c : Nat) : Launch :=
  let used := l.eused + BitVec.ofNat 64 c
  if l.budget = 0 then { l with eused := used }
  else if l.eleft.toNat ≤ c then
    { l with eused := used, eleft := energyLeft l.budget, cls := Nat.min (l.cls + 1) 7 }
  else { l with eused := used, eleft := l.eleft - BitVec.ofNat 64 c }

/-- A core's estimator charges a launch for the last window that has ended, of 1,024 clocks: once each, and the cores in
ascending order (R374). -/
def Dev.mayCharge (d : Dev) (core lid : Nat) : Bool :=
  let n := d.clock / 1024
  let e := d.est
  core < Config.cores && (e.window < n || (e.window == n && n != 0 &&
    (e.core < core || (e.core == core && !e.lids.contains lid))))

/-- The estimators after that charge. -/
def Dev.charged (d : Dev) (core lid : Nat) : Dev :=
  let n := d.clock / 1024
  let lids := if d.est.window = n && d.est.core = core then lid :: d.est.lids else [lid]
  { d with est := { window := n, core := core, lids := lids } }

/-- ENERGY_CHARGE (R374). -/
def execEnergyCharge (x : Estimate) (charge : Nat) (s : State) : Host.Outcome State Fault Refusal :=
  event s fun w =>
    if w.dev.mayCharge x.core x.lid then
      { w with dev := (w.dev.charged x.core x.lid).onLaunch x.lid fun l => l.charge charge }
    else w

/-- The caps of R333. -/
def capSteps : List Nat := [4, 8, 16, 32, 128]

def legalCap (n : Nat) : Bool := capSteps.contains n

/-- The next cap below, and the next one above (R391). -/
def capBelow (n : Nat) : Nat := ((capSteps.filter (· < n)).getLast?).getD n
def capAbove (n : Nat) : Nat := ((capSteps.filter (n < ·)).head?).getD n

/-- Sets a core's thermal cap (R333, R357). -/
def Work.setCap (w : Work) (core lanes : Nat) : Work :=
  if core < Config.cores && legalCap lanes then
    ({ w with dev := w.dev.setCore core { w.dev.core core with cap := lanes } }).mirror core
  else w

/-- Praline reads a core's sensors (R391): above 95 degrees the cap goes one step down, below 90 one step up. -/
def Work.senseCore (w : Work) (core celsius : Nat) : Work :=
  if Config.cores ≤ core then w
  else
    let c := w.dev.core core
    let w := { w with dev := w.dev.setCore core { c with celsius := celsius } }
    if 95 < celsius then w.setCap core (capBelow c.cap)
    else if celsius < 90 then w.setCap core (capAbove c.cap) else w

/-- THERMAL_CAP_CHANGE (R391). -/
def execThermalCapChange (core celsius : Nat) (s : State) : Host.Outcome State Fault Refusal :=
  event s fun w => w.senseCore core celsius

/-! ## Answers and slots of the fault queues -/

/-- An answer code (R344). -/
def Answer.ofCode (n : Nat) : Option Answer :=
  match n with
  | 1 => some .serviced
  | 2 => some .onePage
  | 3 => some .refused
  | 4 => some .unresolvable
  | _ => none

/-- A batch of queue `f` with the answer that its record now holds (R345). -/
def Work.answerOf (w : Work) (f : Nat) (b : Batch) : Batch :=
  match b.answer, b.record with
  | none, some pa =>
    if b.queueFn = f && (w.byte pa).toNat = 1 then { b with answer := Answer.ofCode (w.byte (pa + 1)).toNat }
    else b
  | _, _ => b

/-- FAULT_ANSWER (R345): a raised answer count makes the device re-read the open batches of the queue. -/
def Work.readAnswers (w : Work) (f : Nat) : Work :=
  match w.queueDesc (16 + f) with
  | none => w
  | some q =>
    let n := w.le (q.control + 0x100) 8
    let u := w.dev.fq
    let seen := ((u.queues.find? (·.fn == f)).map (·.seen)).getD 0
    if n ≤ seen then w
    else
      let qs := u.queues.map fun x => if x.fn = f then { x with seen := n } else x
      { w with dev := { w.dev with fq := { u with queues := qs, batches := u.batches.map (w.answerOf f) } } }

/-- FAULT_ANSWER (R345). -/
def execFaultAnswer (f : Nat) (s : State) : Host.Outcome State Fault Refusal :=
  event s fun w => w.readAnswers f

/-- FAULT_QUEUE_CONSUMER_COUNT_WRITE (R345): held records find slots. -/
def execFaultQueueConsumerCountWrite (_f : Nat) (s : State) : Host.Outcome State Fault Refusal :=
  event s Work.flush

end Sys2Proof.Machine
end

