-- ==== Sys2Proof/Machine/Errors.lean ====
section
/-! DEFINITION. Errors, Marble mismatches, drowsy rows, scrub, refresh, the hot-page tracker, failing
pseudo-channels and the thermal trip (R215 to R218, R237, R240, R242, R247, R375, R391). -/
namespace Sys2Proof.Machine

/-! ## Replays and fenced lane groups -/

/-- A free number of the device. -/
def Work.pick (w : Work) : Nat × Work :=
  let n := w.dev.fresh
  (Config.freeChoice n, { w with dev := { w.dev with fresh := n + 1 } })

/-- The error-log record of a queue or pipeline of a core (R219); its entry index and syndrome are free. -/
def Work.logPipe (w : Work) (kind core : Nat) : Work :=
  let (row, w) := w.pick
  let (syn, w) := w.pick
  w.errLog 5 kind core (row % 2 ^ 32) 0 (syn % 2 ^ 32) (w.dev.cycle core % 2 ^ 32)

/-- The block's share holds lane group `g` of its core: groups of 8 lanes (R215). -/
def Place.holdsGroup (p : Place) (g : Nat) : Bool := g < 16 && p.lane < 8 * g + 8 && 8 * g < p.lane + p.share

/-- The block that issues is pre-empted without notice (R215): a transfer that has begun drains first. -/
def Work.evictBlock (w : Work) (area : Word) : Work :=
  let b := w.dev.blk
  if b.run == .ready || b.run == .waiting then
    let p := b.preempt.getD { area := area, resume := 0, begun := false }
    let w := { w with dev := { w.dev with blk := { b with preempt := some p, window := some 0 } } }
    if w.dev.atBoundary w.dev.blk then w.stopIssue else w
  else w

/-- Pre-empts the gang of a block on a fenced lane group, without notice (R40, R215); the spec names no save area,
so that of a gang with no pending request is free. The dispatcher restores the gang by itself, before every other
candidate where its launch is co-resident (R347). -/
def Work.evictGang (w : Work) (lid g : Nat) : Work :=
  match w.dev.launch lid with
  | none => w
  | some l =>
    let n := w.dev.fresh
    let fresh : SavedGang :=
      { gang := g, members := [], area := Config.freeWord n &&& 0xFFFFFFFFFFFFF000#64, whole := false,
        want := some 0, first := l.coresident, since := w.dev.clock, waited := false }
    let entry := (l.savedGang g).getD fresh
    let d := { w.dev with fresh := n + 1 }
    let d := if (l.savedGang g).isSome then d else d.onLaunch lid fun l => { l with saved := l.saved ++ [fresh] }
    let keys := (d.blocks.filter fun b => b.resident && b.id.key.lid == lid && b.id.gang == g).map (·.id.key)
    keys.foldl (fun w k => w.onBlock k fun w =>
      w.evictBlock (memberArea entry.area entry.whole g l.gangSize w.dev.blk.id.member l.hdr)) { w with dev := d }

/-- A core with one more fenced lane group; one without any other is fenced off itself (R25, R215); log entry 92. -/
def Core.fenceGroup (c : Core) (g : Nat) : Core :=
  let f := c.fenced ||| BitVec.ofNat 16 (2 ^ g)
  { c with fenced := f, live := c.live && f != BitVec.allOnes 16 }

/-- Fences a lane group of a core (R25, R215). -/
def Work.fence (w : Work) (core g : Nat) : Work :=
  let w := (({ w with dev := w.dev.setCore core ((w.dev.core core).fenceGroup g) }).mirror core).reportUnits
  let hit := w.dev.blocks.filter fun b => b.resident && b.place.core == core && b.place.holdsGroup g
  ((hit.map fun b => (b.id.key.lid, b.id.gang)).eraseDups).foldl (fun w x => w.evictGang x.1 x.2) w

/-- Counts a replay of the block that issues, and again the events of the instruction that it replays (R376, event 9). -/
def Work.countReplay (w : Work) : Work :=
  let b := w.dev.blk
  let again := w.dev.counted.filter fun x => x.1 == b.id.key
  let d := w.dev.count b.place.core 9 1 b.id.ctx
  { w with dev := again.foldl (fun d x => d.count b.place.core x.2.1 x.2.2 b.id.ctx) d }

/-- Fences an entry of the store queue of a slice in a core (R215). -/
def Work.fenceEntry (w : Work) (core slice : Nat) : Work :=
  let c := w.dev.core core
  { w with dev := w.dev.setCore core { c with entriesOut := c.entriesOut ++ [slice] } }

/-- SOFT_ERROR_REPLAY (R215): the replay leaves the bits of a run without the error. Points 0 to 15 are the lane groups,
points 16 to 32 the store queues of slices 0 to 16; log entry 14. -/
def Work.softError (w : Work) (lasting : Bool) (g : Nat) (fails : Bool) : Work :=
  let b := w.dev.blk
  let queue := 16 ≤ g && g < 33
  if b.resident && (queue || b.place.holdsGroup g) then
    let w := w.countReplay
    if !(lasting && fails) then w.logPipe 2 b.place.core
    else if queue then (w.logPipe 3 b.place.core).fenceEntry b.place.core (g - 16)
    else (w.logPipe 3 b.place.core).fence b.place.core g
  else w

/-- MARBLE_MISMATCH (R216). -/
def Work.mismatch (w : Work) (again : Bool) (g : Nat) (fails : Bool) : Work :=
  let b := w.dev.blk
  if b.resident && b.ps.marble && b.place.holdsGroup g then
    if !again then w.countReplay.logPipe 4 b.place.core
    else if fails then (w.logPipe 3 b.place.core).fence b.place.core g
    else w.countReplay.logPipe 2 b.place.core
  else w

/-- SOFT_ERROR_REPLAY (R215). -/
def execSoftErrorReplay (k : BlockKey) (lasting : Bool) (g : Nat) (fails : Bool) (s : State) :
    Host.Outcome State Fault Refusal :=
  event s fun w => w.onBlock k fun w => w.softError lasting g fails

/-- MARBLE_MISMATCH (R216). -/
def execMarbleMismatch (k : BlockKey) (again : Bool) (g : Nat) (fails : Bool) (s : State) :
    Host.Outcome State Fault Refusal :=
  event s fun w => w.onBlock k fun w => w.mismatch again g fails

/-! ## Drowsy rows -/

/-- A row of the register file: partitions of 1,536 rows (R217, R230). -/
def rowExists (core part row : Nat) : Bool := core < Config.cores && part < 4 && row < 1536

/-- A row is accessed: when that was. -/
def Uncore.usedRow (u : Uncore) (row : Nat × Nat × Nat) (clock : Nat) : Uncore :=
  { u with rowUse := (row, clock) :: u.rowUse.filter fun x => x.1 != row }

/-- The clock of the access that the device knows of. -/
def Uncore.rowUsed (u : Uncore) (row : Nat × Nat × Nat) : Nat :=
  ((u.rowUse.find? fun x => x.1 == row).map (·.2)).getD 0

/-- The clock at which a block last accessed a row of a partition, at the latest: no block of it has issued since. -/
def Dev.lastRowUse (d : Dev) (core part : Nat) : Nat :=
  ((d.blocks.filter fun b => b.resident && b.place.core == core && b.place.rowsIn part != 0).map (·.lastIssue)).foldl
    Nat.max 0

/-- DROWSY_ENTRY (R217): a row that was not accessed for 16,384 clocks keeps its contents. Which physical rows an
instruction accesses is free, log entry 17: the row was last accessed between the access that the device knows of, at reset
none, and the last issue in its partition. -/
def Work.sleepRow (w : Work) (core part row : Nat) : Work :=
  let (free, w) := w.pick
  let u := w.dev.unc
  let used := Nat.max (u.rowUsed (core, part, row)) (free % (w.dev.lastRowUse core part + 1))
  if rowExists core part row && !u.drowsy.contains (core, part, row) && used + 16384 ≤ w.dev.clock then
    { w with dev := { w.dev with unc := { u with drowsy := u.drowsy ++ [(core, part, row)] } } }
  else w

/-- DROWSY_ENTRY (R217). -/
def execDrowsyEntry (core part row : Nat) (s : State) : Host.Outcome State Fault Refusal :=
  event s fun w => w.sleepRow core part row

/-- Blocks hold rows of the partition. -/
def Dev.rowsHeld (d : Dev) (core part : Nat) : Nat :=
  ((d.blocks.filter fun b => b.resident && b.place.core == core).map fun b => b.place.rowsIn part).sum

/-- DEBUGGER_READ (R217): a drowsy row wakes in 12 clocks; outside every grant zero comes with the status GATED.
Which physical rows a grant holds, and what a row of it shows, is free. -/
def Work.debugRead (w : Work) (core part row : Nat) : Work :=
  if rowExists core part row then
    let d := w.dev
    let u := d.unc
    let d := if u.drowsy.contains (core, part, row) then
        { d.elapse 12 with unc := { u with drowsy := u.drowsy.filter (· != (core, part, row)) } }
      else d
    let d := { d with unc := d.unc.usedRow (core, part, row) d.clock }
    let n := d.fresh
    let held := d.rowsHeld core part
    let gated := held = 0 || (held < 1536 && Config.freeChoice n % 2 == 0)
    { w with dev := { d with fresh := n + 1, svc := { d.svc with
        read := some (if gated then 0 else Config.freeWord n), gated := gated } } }
  else w

/-- DEBUGGER_READ (R217). -/
def execDebuggerRead (core part row : Nat) (s : State) : Host.Outcome State Fault Refusal :=
  event s fun w => w.debugRead core part row

/-! ## Scrub and refresh -/

/-- The field of a level in SCRUBCFG (R218). -/
def Dev.scrubField (d : Dev) (level : Nat) : Nat := d.scrubcfg.toNat / 2 ^ (8 * level) % 256

/-- An error lies in the unit that a scrub of a level visits (R218): a block's rows of a tile, which its number names,
a storage row of a block's scratch bytes (R229), a tile store
row, a line of a slice, a pseudo-channel. -/
def Work.inUnit (w : Work) (level unit row : Nat) (u : Upset) : Bool :=
  match level, u.loc with
  | 0, .tile k t _ _ => w.dev.blocks.any fun b => b.resident && b.id.key == k && b.place.core == unit / 4 &&
      b.place.rowsIn (unit % 4) != 0 && t.toNat == row
  | 1, .scratch k seg => w.dev.blocks.any fun b => b.resident && b.id.key == k && b.place.core == unit / 4 &&
      (b.place.scratchAt (16 * seg)).group / 4 == unit % 4 && (b.place.scratchAt (16 * seg)).row == row
  | 2, .acc core r _ => core == unit && r == row
  | 3, .line n true => n == row && w.homeSlice (n * 128) == unit
  | 4, .line n false =>
    let pa := n * 128
    let l := w.locate (plOfPa pa) (pa % 2 ^ 42)
    regionOf pa == 0 && l.stack == unit && l.channel == row
  | _, _ => false

/-- The unit number and address that an error-log record of a scrub shows (R219). -/
def scrubPlace (level unit : Nat) (u : Upset) : Nat × Nat :=
  (if level ≤ 1 then unit / 4 else unit, match u.loc with | .line n _ => n * 128 | _ => 0)

/-- Scrubs one error: a single-bit error is corrected and counted, another is logged and left (R218, R247). -/
def Work.scrubOne (w : Work) (level unit row : Nat) (u : Upset) : Work :=
  let (n, pa) := scrubPlace level unit u
  let w := w.errLog level (if u.fatal then 1 else 0) n (row % 2 ^ 32) pa u.syndrome.toNat
    (if level < 3 then w.dev.cycle n % 2 ^ 32 else 0)
  if u.fatal then w
  else
    let c := w.dev.unc
    let d := { w.dev with unc := { c with upsets := c.upsets.filter (· != u) } }
    { w with dev := if level = 3 then d.bump (0x200 + unit) 1 else d }

/-- SCRUB (R218), after the demand accesses of its clock (R248). -/
def Work.scrub (w : Work) (level unit row : Nat) : Work :=
  if w.dev.scrubField level = 0 then w
  else
    let w := { w with dev := { w.dev with late := true } }
    (w.dev.unc.upsets.filter (w.inUnit level unit row)).foldl (fun w u => w.scrubOne level unit row u) w

/-- SCRUB (R218). -/
def execScrub (level unit row : Nat) (s : State) : Host.Outcome State Fault Refusal :=
  event s fun w => w.scrub level unit row

/-! ## Pseudo-channels -/

/-- The spaces of a stack (R238). -/
def spacesOf (st : Nat) : List Nat := [st, 24 + st / 2, 36 + st / 4, 42 + st / 12, 44]

/-- A generation of a stack is in use: some space of the stack is carved in it (R240, R352). -/
def Work.genUsed (w : Work) (st gen : Nat) : Bool := (spacesOf st).any fun s => (w.carve s gen).2 != 0

def Stack.setLive (s : Stack) (gen : Nat) (l : List Nat) : Stack :=
  if gen = 0 then { s with live0 := l } else { s with live1 := l }

def Stack.setDead (s : Stack) (gen : Nat) (l : List Nat) : Stack :=
  if gen = 0 then { s with dead0 := l } else { s with dead1 := l }

/-- The other generation becomes current without the channels of `gone` (R240). -/
def Stack.switch (s : Stack) (gone : List Nat) : Stack :=
  let next := 1 - s.gen
  let live := (s.live s.gen).filter fun c => !(gone ++ s.dead s.gen).contains c
  let old := (s.dead s.gen ++ gone).eraseDups
  { ((s.setLive next live).setDead next []).setDead s.gen old with gen := next }

/-- PSEUDO_CHANNEL_FAILURE (R240). -/
def Work.failChannel (w : Work) (st ch : Nat) : Work :=
  let s := w.dev.stack st
  if st < 24 && (s.live s.gen).contains ch && !(s.dead s.gen).contains ch then
    if s.spares != 0 then
      let s := { s with spares := s.spares - 1, copying := s.copying ++ [ch] }
      ({ w with dev := (w.dev.setStack st s).bump (0x320 + st) 1 }).reportUnits
    else
      let s := if w.genUsed st (1 - s.gen) then
          (s.setDead 0 (s.dead0 ++ [ch])).setDead 1 (s.dead1 ++ [ch])
        else s.switch [ch]
      ({ w with dev := w.dev.setStack st s }).reportUnits
  else w

/-- PSEUDO_CHANNEL_FAILURE (R240). -/
def execPseudoChannelFailure (st ch : Nat) (s : State) : Host.Outcome State Fault Refusal :=
  event s fun w => w.failChannel st ch

/-- SPARE_COPY_COMPLETE (R240): lines that cannot be corrected carry their poison bit. -/
def Work.copyDone (w : Work) (st ch : Nat) : Work :=
  let s := w.dev.stack st
  if s.copying.contains ch then
    let errs := w.dev.unc.upsets.filter (w.inUnit 4 st ch)
    let w := { w with dev := w.dev.setStack st { s with copying := s.copying.erase ch } }
    let u := w.dev.unc
    let w := { w with dev := { w.dev with unc := { u with upsets := u.upsets.filter fun x => !errs.contains x } } }
    (errs.foldl (fun w x => match x.loc with
      | .line n _ => if x.fatal then w.setPoison n true else w
      | _ => w) w).serveQueued
  else w

/-- SPARE_COPY_COMPLETE (R240). -/
def execSpareCopyComplete (st ch : Nat) (s : State) : Host.Outcome State Fault Refusal :=
  event s fun w => w.copyDone st ch

/-- A failure that waited for the older generation takes effect once nothing is carved in it (R240). -/
def Work.lateSwitch (w : Work) (st : Nat) : Work :=
  let s := w.dev.stack st
  if s.dead s.gen != [] && !w.genUsed st (1 - s.gen) then
    ({ w with dev := w.dev.setStack st (s.switch []) }).reportUnits
  else w

/-- REFRESH (R247): the read-out's error count is added where SCRUBCFG scrubs HBM4E. -/
def Work.refresh (w : Work) (st ch errors : Nat) : Work :=
  let s := w.dev.stack st
  if st < 24 && (s.live s.gen).contains ch then
    let w := if w.dev.scrubField 4 = 0 then w else { w with dev := w.dev.bump (0x300 + st) errors }
    w.lateSwitch st
  else w

/-- REFRESH (R247). -/
def execRefresh (st ch errors : Nat) (s : State) : Host.Outcome State Fault Refusal :=
  event s fun w => w.refresh st ch errors

/-- SELF_REFRESH_ENTRY (R247): a request of the same cycle wins. -/
def Work.selfRefresh (w : Work) (st ch : Nat) (request : Bool) : Work :=
  let s := w.dev.stack st
  if !(st < 24 && (s.live s.gen).contains ch) then w
  else if request then { w with dev := w.dev.setStack st { s with asleep := s.asleep.filter (· != ch) } }
  else if s.asleep.contains ch then w
  else { w with dev := w.dev.setStack st { s with asleep := s.asleep ++ [ch] } }

/-- SELF_REFRESH_ENTRY (R247). -/
def execSelfRefreshEntry (st ch : Nat) (request : Bool) (s : State) : Host.Outcome State Fault Refusal :=
  event s fun w => w.selfRefresh st ch request

/-- ROUTER_POWER_DOWN (R247): a wake of the same cycle wins. -/
def Work.routerDown (w : Work) (r : Nat) (wake : Bool) : Work :=
  let u := w.dev.unc
  let rs := u.routersDown.filter (· != r)
  { w with dev := { w.dev with unc := { u with routersDown := if wake then rs else rs ++ [r] } } }

/-- ROUTER_POWER_DOWN (R247). -/
def execRouterPowerDown (r : Nat) (wake : Bool) (s : State) : Host.Outcome State Fault Refusal :=
  event s fun w => w.routerDown r wake

/-! ## Hot pages and held lines -/

/-- The pages with L2 misses that have their home on a die, and their counts (R237). -/
def Work.dieMisses (w : Work) (die : Nat) : List (Nat × Nat) :=
  w.dev.unc.misses.filter fun x => w.homeDie (65536 * x.1) == die

/-- The page lies in one that COPYX is moving (R237, R286). -/
def Dev.onTheMove (d : Dev) (pa : Nat) : Bool :=
  d.eng.ops.any fun o => match o.kind with
    | .move _ _ old _ _ _ size _ _ _ => o.bad.isNone && inPage pa old size
    | _ => false

/-- Sends a RESTRIPE_HINT, or drops and counts it at a full queue (R237, R345). -/
def Work.hint (w : Work) (pa count cls : Nat) : Work :=
  let r := deviceRec .restripeHint (natLe 8 pa ++ natLe 8 count ++ natLe 1 cls)
  let drop : Work := { w with dev := w.dev.bump 0x101 1 }
  if w.dev.fq.held.any (·.fn == 0) then drop
  else match w.append 0 r with
    | some (_, w') => w'
    | none => drop

/-- The tracker looks at one page and its miss count (R237). -/
def Work.hotPage (w : Work) (die : Nat) (x : Nat × Nat) : Work :=
  let pa := 65536 * x.1
  if x.2 ≤ w.dev.fw.missLimit || w.dev.onTheMove pa then w
  else
    let pinned := w.dev.unc.l2.any fun e => e.pin && !e.away && e.line / 512 == x.1
    if pinned && w.pageScope pa then { w with dev := w.dev.bump (0x102 + die) 1 }
    else w.hint pa x.2 (plClass (plOfPa pa) + 1)

/-- Clocks of a tracker's window (R237). -/
def hotWindow : Nat := 2 ^ 22

/-- A die's window is over (R237). -/
def Dev.windowOver (d : Dev) (die : Nat) : Bool := d.unc.windows.toList.getD die 0 + hotWindow ≤ d.clock

/-- The end of a die's window (R237): its pages are looked at, and the next window begins with no miss. -/
def Work.endWindow (w : Work) (die : Nat) : Work :=
  let seen := w.dieMisses die
  let w := seen.foldl (fun w x => w.hotPage die x) w
  let u := w.dev.unc
  let start := u.windows.toList.getD die 0
  let next := start + (w.dev.clock - start) / hotWindow * hotWindow
  { w with dev := { w.dev with unc := { u with misses := u.misses.filter fun x => !seen.contains x,
                                               windows := u.windows.setIfInBounds die next } } }

/-- HOT_PAGE_WINDOW (R237). -/
def execHotPageWindow (die : Nat) (s : State) : Host.Outcome State Fault Refusal :=
  event s fun w => if die < 2 && w.dev.windowOver die then w.endWindow die else w

/-- The held lines of a slice drain, oldest first (R242, R248). -/
def Work.drainSlice (w : Work) (slice : Nat) : Work :=
  w.drainStarved (w.dev.unc.starved.filter fun l => w.homeSlice (l * 128) == slice)

/-- HELD_LINE_DRAIN (R242). -/
def execHeldLineDrain (slice : Nat) (s : State) : Host.Outcome State Fault Refusal :=
  event s fun w => w.drainSlice slice

/-! ## Thermal trip -/

/-- A device whose contexts are lost (R391). -/
def Dev.loseContexts (d : Dev) : Dev :=
  let r := Dev.reset
  { d with blk := r.blk, others := [], agenda := [], lu := r.lu, fq := r.fq, eng := r.eng,
           unc := { d.unc with tlb := [], walks := [], drowsy := [], rowUse := [] },
           link := r.link, logbase := [], logInit := [] }

/-- Some sensor shows 110 degrees or more (R391). -/
def Dev.tooHot (d : Dev) : Bool := (List.range Config.cores).any fun c => 110 ≤ (d.core c).celsius

/-- Praline trips the device (R391): every context is lost, and the host link is down. -/
def Dev.trip (d : Dev) : Dev :=
  if d.tooHot then
    let d := d.loseContexts
    { d with ownQueue := [], svc := { d.svc with stage := .tripped } }
  else d

/-- THERMAL_TRIP (R391). -/
def execThermalTrip (s : State) : Host.Outcome State Fault Refusal :=
  event s fun w => { w with dev := w.dev.trip }

end Sys2Proof.Machine
end

