-- ==== Sys2Proof/Machine/HostEvents.lean ====
section
/-! DEFINITION. The host, boot, attestation, firmware update, device reset and Praline (R219, R379, R380, R391 to
R395). -/
namespace Sys2Proof.Machine

/-! ## CXL -/

/-- The cells of a list of bytes from a physical address. -/
def cellsFrom_ (pa : Nat) (bs : List Byte) : List Host.Cell := bs.zipIdx.map fun x => (pa + x.2, x.1)

/-- The host port offers CXL.mem and CXL.cache once firmware runs, in recovery CXL.io alone; after a trip its link is down
(R391, R393). -/
def Dev.hostUp (d : Dev) : Bool := d.svc.stage == .running

/-- HOST_CXL_MEM_ACCESS (R380): each line of the window as a host access at its home. -/
def Work.hostAccess (w : Work) (write : Bool) (pa : Nat) (bytes : List Byte) : Work :=
  let cells := cellsFrom_ pa bytes
  let lines := if write then (cells.map fun c => lineOf c.1).eraseDups else [lineOf pa]
  (if w.dev.hostUp then lines.filter w.inWindow else []).foldl (fun w l =>
    w.request l (if write then .hostWrite (cells.filter fun c => lineOf c.1 == l) else .hostRead)) w

/-- HOST_CXL_MEM_ACCESS (R380). -/
def execHostCxlMemAccess (write : Bool) (pa : Nat) (bytes : List Byte) (s : State) :
    Host.Outcome State Fault Refusal :=
  event s fun w => w.hostAccess write pa bytes

/-- HOST_SNOOP (R379): the host takes back a line of region 2, whose bytes from its first one are then `bytes`. -/
def Work.snoop (w : Work) (line : Nat) (bytes : List Byte) : Work :=
  if w.dev.hostUp && regionOf (line * 128) = 2 then
    let cells := cellsFrom_ (line * 128) (bytes.take 128)
    let w := if cells = [] then w else w.performBytes line cells false 0
    { w with dev := w.dev.invalidateL2 line }
  else w

/-- HOST_SNOOP (R379). -/
def execHostSnoop (line : Nat) (bytes : List Byte) (s : State) : Host.Outcome State Fault Refusal :=
  event s fun w => w.snoop line bytes

/-- BIRSP (R380): the host has dropped its copy; writes that waited proceed. -/
def Work.hostDropped (w : Work) (line : Nat) : Work :=
  let l := w.dev.link
  if l.snoops.contains line then
    ({ w with dev := { w.dev with link := { l with
        snoops := l.snoops.filter (· != line), dropped := l.dropped ++ [line] } } }).serveQueued
  else w

/-- BIRSP (R380). -/
def execBirsp (line : Nat) (s : State) : Host.Outcome State Fault Refusal :=
  event s fun w => w.hostDropped line

/-! ## Boot -/

/-- The header's fields (R393). -/
def imagePart (i : Image) (at_ n : Nat) : List Byte := (i.header.drop at_).take n

/-- Why the boot ROM refuses an image, in the order of R393; none where it accepts it. -/
def imageRefused (i : Image) : Option Nat :=
  let slot := leNat (imagePart i 4 1)
  if i.header.length ≠ 184 ∨ leNat (imagePart i 0 4) ≠ 0x4B5A5331 ∨
      leNat (imagePart i 16 8) ≠ i.body.length then some 0
  else if 4 ≤ slot ∨ Config.sha512 (imagePart i 88 32) ≠ Config.fusedHash slot then some 1
  else if Config.revokedSlots.getLsbD slot then some 2
  else if leNat (imagePart i 8 8) < Config.rollback then some 3
  else if !Config.ed25519Verify (imagePart i 88 32) (imagePart i 0 120) (imagePart i 120 64) then some 4
  else if Config.sha512 i.body ≠ imagePart i 24 64 then some 5
  else none

/-- `n` free words. -/
def freeNat (n : Nat) : Nat := (Config.freeWord n).toNat

/-- HDM decoders in ascending offsets from `at_` units of 256 MiB on (R382): at most 8, none overlapping, within the 43 bits
of region 1. -/
def bootDecoders (n fuel at_ : Nat) : List Decoder :=
  match fuel with
  | 0 => []
  | f + 1 =>
    let left := 2 ^ 15 - at_
    if left = 0 || freeNat n % 2 = 0 then []
    else
      let gap := freeNat (n + 1) % left
      let len := 1 + freeNat (n + 2) % (left - gap)
      { base := (at_ + gap) * 2 ^ 28, len := len * 2 ^ 28, port := freeNat (n + 3) % 2 } ::
        bootDecoders (n + 4) f (at_ + gap + len)

/-- Lanes and rates to which the host port trains (R379), the lowest rate, 2.5 GT/s, as 2. -/
def hostWidths : List Nat := [16, 8, 4]
def hostRates : List Nat := [64, 32, 16, 8, 5, 2]

/-- What firmware reports through the capability list is its own choice (R365, R366, R389), within the ranges that the
rules give: the identity (R20), a queue table on a 4 KiB boundary in the host window (R322, R380), the host port (R379), the
decoders (R382). -/
def bootFirmware (n : Nat) : Firmware :=
  let base := freeNat (n + 8) % 2 ^ 36 * 4096
  let pages := 2 + freeNat (n + 9) % 2 ^ 30
  { queueTable := base + freeNat n % (pages - 1) * 4096, ctxTable := freeNat (n + 1),
    carveTable := freeNat (n + 2), mirror := freeNat (n + 3),
    routing := freeNat (n + 4), deviceId := freeNat (n + 5) % 1024, domain := freeNat (n + 6) % 64,
    degraded := false, missLimit := freeNat (n + 7) % 2 ^ 32, windowBase := base, windowLen := 4096 * pages,
    expanders := bootDecoders (n + 16) 8 0, generation := 2 * freeNat (n + 10),
    capList := 16 * (freeNat (n + 11) % 2 ^ 60), slices := 2 ^ 256 - 1,
    width := hostWidths.getD (freeNat (n + 12) % 3) 16, rate := hostRates.getD (freeNat (n + 13) % 6) 64,
    vfs := freeNat (n + 14) % 65, changed := none }

/-- The routing table as firmware writes it (R387, R389): port sets and path versions of its choice, and zero for the device's
own entry. -/
def routingBytes (n own : Nat) : List Byte :=
  (List.range 1024).flatMap fun i =>
    natLe 4 (if i = own then 0 else freeNat (n + i) % 2 ^ 24 + 2 ^ 24 * (1 + Config.freeChoice (n + i) % 2))

/-- Free values that firmware's choices take. -/
def bootFree : Nat := 48

/-- Firmware runs: the stages' digests are known, and its tables stand where it put them: the carve table at its first
contents, the routing table, the mirrors of the cores, and the capability list with an even generation (R352, R357, R365,
R389). -/
def Work.runFirmware (w : Work) (stages : List (List Byte)) : Work :=
  let n := w.dev.fresh
  let d := { w.dev with fw := bootFirmware n, fresh := n + bootFree + 1024,
                        svc := { w.dev.svc with stage := .running, stages := stages } }
  let d := { d with fw := { d.fw with degraded := !d.fullGrade } }
  let w := (({ w with dev := d }).putBytes d.fw.carveTable carveBytes).putBytes d.fw.routing
    (routingBytes (n + bootFree) d.fw.deviceId)
  ((List.range Config.cores).foldl Work.mirror w).putBytes d.fw.capList d.capList

/-- Why an image or a later stage is refused, in their order (R393): each stage checks the next. -/
def chainRefused (is : List Image) : Option Nat :=
  match is with
  | [] => none
  | i :: r => match imageRefused i with
    | some x => some x
    | none => chainRefused r

/-- BOOT (R393): on any failure the device stays in recovery, with the reason that Praline reports. -/
def Work.boot (w : Work) (i : Image) (next : List Image) : Work :=
  match w.dev.svc.stage with
  | .standby | .recovery _ =>
    match chainRefused (i :: next) with
    | some r => { w with dev := { w.dev with svc := { w.dev.svc with stage := .recovery r } } }
    | none => w.runFirmware ((i :: next).map fun x => Config.sha512 x.body)
  | .running | .tripped => w

/-- BOOT (R393): the first-stage image, and those of the stages after it. -/
def execBoot (x : ImageChain) (s : State) : Host.Outcome State Fault Refusal :=
  event s fun w => w.boot x.first x.rest

/-- The report of R394, its parts in the order of that rule. -/
def Dev.reportBody (d : Dev) (nonce : List Byte) : List Byte :=
  nonce ++ d.svc.stages.flatten ++ natLe 8 Config.rollback ++ natLe 1 (if d.fw.degraded then 1 else 0) ++
    natLe 2 d.fw.deviceId ++ natLe 1 d.fw.domain ++ natLe 8 d.fw.generation

/-- ATTESTATION_REQUEST (R394): the report, signed. -/
def Dev.attest (d : Dev) (nonce : List Byte) : Dev :=
  if nonce.length = 32 then
    let body := d.reportBody nonce
    { d with svc := { d.svc with report := some (body ++ Config.ed25519Sign body) } }
  else d

/-- ATTESTATION_REQUEST (R394). -/
def execAttestationRequest (nonce : List Byte) (s : State) : Host.Outcome State Fault Refusal :=
  event s fun w => { w with dev := w.dev.attest nonce }

/-- FIRMWARE_UPDATE (R395): an image that passes R393 waits for the next device reset. -/
def Dev.stage (d : Dev) (i : Image) : Dev :=
  match imageRefused i with
  | some _ => d
  | none => { d with svc := { d.svc with staged := some i } }

/-- FIRMWARE_UPDATE (R395). -/
def execFirmwareUpdate (i : Image) (s : State) : Host.Outcome State Fault Refusal :=
  event s fun w => { w with dev := w.dev.stage i }

/-- The device after a reset (R395): the metadata of every line are those of an unlisted one (R244), a staged image takes
effect as the first stage, else the firmware that ran before boots again; free values go on from fresh ones. -/
def Work.afterReset (w : Work) : Work :=
  let stages := match w.dev.svc.staged with
    | some i => Config.sha512 i.body :: w.dev.svc.stages.drop 1
    | none => w.dev.svc.stages
  let r : Work := { w with tjnl := w.tags.map fun x => (x.1, 0), dev := { Dev.reset with fresh := w.dev.fresh } }
  if stages = [] then r else r.runFirmware stages

/-- DEVICE_RESET (R395): every state of the device at its reset value, the metadata of lines among it (R244); the
bytes of memory stand. -/
def execDeviceReset (s : State) : Host.Outcome State Fault Refusal :=
  event s Work.afterReset

/-! ## Praline -/

/-- ERRLOG_WRITE (R219). -/
def execErrlogWrite (v : Word) (s : State) : Host.Outcome State Fault Refusal :=
  event s fun w => { w with dev := w.dev.writeErrlog v }

/-- SCRUBCFG at 3,000 m and above (R392). -/
def highScrub : Word := 0x1C0A0D0E0E

/-- The counters of R375. -/
def praline (n : Nat) : Bool :=
  n == 0x100 || n == 0x101 || (0x102 ≤ n && n ≤ 0x105) || (0x110 ≤ n && n ≤ 0x166 && n % 16 ≤ 6) ||
    (0x200 ≤ n && n ≤ 0x2FF) || (0x300 ≤ n && n ≤ 0x317) || (0x320 ≤ n && n ≤ 0x337)

/-- MANAGEMENT_REQUEST (R391, R392, R395). -/
def Work.manage (w : Work) (r : Management) : Work :=
  let d := w.dev
  match r with
  | .writeScrub v => { w with dev := { d with scrubcfg := scrubCfg d.scrubcfg v } }
  | .highAltitude => { w with dev := { d with scrubcfg := scrubCfg d.scrubcfg highScrub,
                                              svc := { d.svc with highAlt := true } } }
  | .readErrlog => { w with dev := { d with svc := { d.svc with read := some d.err.reg, gated := false } } }
  | .readCounter n =>
    if praline n then
      { w with dev := { d with svc := { d.svc with read := some (d.liveCounter n), gated := false } } }
    else w
  | .readReason =>
    match d.svc.stage with
    | .recovery r => { w with dev := { d with svc := { d.svc with read := some (BitVec.ofNat 64 r), gated := false } } }
    | .standby | .running | .tripped => w
  | .setCap core lanes => w.setCap core lanes

/-- MANAGEMENT_REQUEST (R395). -/
def execManagementRequest (r : Management) (s : State) : Host.Outcome State Fault Refusal :=
  event s fun w => w.manage r

end Sys2Proof.Machine
end

