-- ==== Sys2Proof/Machine/Reduce.lean ====
section
/-! DEFINITION. Reduction, scan, compaction and the mask instructions: majors 0x1D and 0x1E (R114, R115,
R157 to R159). -/
namespace Sys2Proof.Machine

/-! ## Reductions -/

/-- The reduction type of a source tag (R114). -/
def Tag.reductionType (t : Tag) : Tag :=
  if t == .fp64 then .fp64 else if t.isFloat then .fp32 else if t.signed then .int32 else .uint32

/-- The identity of a reduction (R114). -/
def redIdentity (t : Tag) (op : Nat) : Val :=
  if t.isFloat then
    .num (match op with
      | 0 => .zero true
      | 1 => .inf false
      | _ => .inf true)
  else
    .int (match op with
      | 1 => t.intMax
      | 2 => t.intMin
      | 3 => if t.signed then -1 else t.intMax
      | _ => 0)

/-- One node on values of the reduction type (R101, R114): floats round to nearest, integer ADD wraps. -/
def redNode (t : Tag) (op : Nat) (x y : Val) : Val :=
  match mergePoison x.poison y.poison with
  | .some c => .bad c
  | .none =>
    match x, y with
    | .int a, .int b =>
      let bits (f : Nat → Nat → Nat) : Int :=
        intValue t.signed t.width (f (intWrap t.width a) (intWrap t.width b))
      .int (match op with
        | 0 => intValue t.signed t.width (intWrap t.width (a + b))
        | 1 => min a b
        | 2 => max a b
        | 3 => bits fun p q => p &&& q
        | 4 => bits fun p q => p ||| q
        | _ => bits fun p q => p ^^^ q)
    | a, b =>
      .num (t.fmt.round .rne (match op with
        | 0 => Num.add .rne a.toNum b.toNum
        | 1 => a.toNum.min b.toNum
        | _ => a.toNum.max b.toNum))

/-- The largest power of two below n, for n above 1 (R114). -/
def splitAt_ (n : Nat) : Nat := 2 ^ (bitLen_ (n - 1) - 1)

/-- tree of R114; `fuel` bounds its depth. -/
def tree {α : Type} (op : α → α → α) (fuel : Nat) (vs : List α) (z : α) : α :=
  match fuel with
  | 0 => z
  | f + 1 =>
    match vs with
    | [] => z
    | [x] => x
    | vs =>
      let m := splitAt_ vs.length
      op (tree op f (vs.take m) z) (tree op f (vs.drop m) z)

/-- Inclusive prefix in ascending order (R115). -/
def scanFrom {α : Type} (op : α → α → α) (acc : α) (vs : List α) : List α :=
  match vs with
  | [] => []
  | x :: r => let y := op acc x; y :: scanFrom op y r

def prefixes {α : Type} (op : α → α → α) (vs : List α) : List α :=
  match vs with
  | [] => []
  | x :: r => x :: scanFrom op x r

/-- A value with whether every element behind it was neither NaN nor poison (R102). -/
abbrev Clean := Val × Bool

def cleanNode (t : Tag) (op : Nat) (x y : Clean) : Clean := (redNode t op x.1 y.1, x.2 && y.2)

/-- The elements of a that take part, the identity for the rest (R114). -/
def redInputs (t src : Tag) (op : Nat) (sel : List Bool) (vs : List Val) : List Clean :=
  List.zipWith (fun s v =>
    if s then
      let v := v.promoteTo src t
      (v, !v.isNan && v.poison.isNone)
    else (redIdentity t op, true)) sel vs

/-- Columns of a list of rows. -/
def columns {α : Type} (n : Nat) (rows : List (List α)) : List (List α) :=
  (List.range n).map fun j => rows.filterMap (·[j]?)

/-- TREDR, TREDC and TSCAN share their checks (R157): `shape` gives the destination's rows and columns from
a's, `lines` the results from a's rows. -/
def reduction (d a : TileNo) (m : MaskField) (op : Nat) (shape : ShapeRec → Nat × Nat)
    (lines : (Clean → Clean → Clean) → Nat → List (List Clean) → List Clean) : M Unit := do
  let rd ← bound d
  let ra ← bound a
  let t := ra.tag.reductionType
  if (t.isFloat && 2 < op) || (t.isFloat && rd.tag.isInt) then raise .typeState
  freshRecs [rd, ra]
  if (rd.rows, rd.ncols) != shape ra then raise .shapeMismatch
  let k ← getBlk
  let mask := k.rm_ m
  match mask.poison with
  | some c => poisonTile d rd c
  | none =>
    let xs := redInputs t ra.tag op (mask.select ra.size) (k.vals a ra)
    let out := lines (cleanNode t op) ra.ncols (chunks ra.rows ra.ncols xs)
    writeCells d rd .rne false false (out.map fun x => .new x.1 x.2 .rne)

/-- The tree of one line. -/
def lineTree (f : Clean → Clean → Clean) (xs : List Clean) : Clean :=
  tree f (xs.length + 1) xs (.num (.zero false), true)

/-- TREDR (R114, R157). -/
def execTredr (d a : TileNo) (m : MaskField) (x : BitVec 3) (s : State) :
    Host.Outcome State Fault Refusal :=
  run s true (reduction d a m x.toNat (fun r => (r.rows, 1)) fun f _ rows => rows.map (lineTree f))

/-- TREDC (R114, R157). -/
def execTredc (d a : TileNo) (m : MaskField) (x : BitVec 3) (s : State) :
    Host.Outcome State Fault Refusal :=
  run s true (reduction d a m x.toNat (fun r => (1, r.ncols)) fun f n rows =>
    (columns n rows).map (lineTree f))

/-- TSCAN (R115, R157). -/
def execTscan (d a : TileNo) (m : MaskField) (x : BitVec 3) (s : State) :
    Host.Outcome State Fault Refusal :=
  run s true (reduction d a m x.toNat (fun r => (r.rows, r.ncols)) fun f _ rows =>
    rows.flatMap (prefixes f))

/-! ## Compaction -/

/-- A value that TNZ counts (R157): not a zero of either sign. -/
def Val.nonZero (v : Val) : Bool :=
  match v with
  | .int n => n != 0
  | .num (.fin _ m _ _) => m != 0
  | _ => true

/-- A source selector, or its poison (R101). -/
def withSelector (d : TileNo) (r : ShapeRec) (m : MaskReg) (f : M Unit) : M Unit :=
  match m.poison with
  | some c => poisonTile d r c
  | none => f

/-- The selected items, in ascending order. -/
def selected {α : Type} (sel : List Bool) (xs : List α) : List α :=
  (List.zip sel xs).filterMap fun x => if x.1 then some x.2 else none

/-- TNZ (R157). -/
def tnz (d a : TileNo) (m : MaskField) : M Unit := do
  let rd ← bound d
  let ra ← bound a
  if rd.tag != .int32 && rd.tag != .uint32 then raise .typeState
  freshRecs [rd, ra]
  let k ← getBlk
  let mask := k.rm_ m
  withSelector d rd mask do
    let hits := selected (mask.select ra.size) (withIndex 0 (k.vals a ra))
    let vs := hits.filterMap fun (e, v) => match v with
      | .bad c => some (Val.bad c)
      | v => if v.nonZero then some (.int e) else none
    writeCells d rd .rne false false
      ((padTo (Val.int 0xFFFFFFFF) rd.size vs).map fun v => .new v false .rne)

/-- TNZ (R157). -/
def execTnz (d a : TileNo) (m : MaskField) (s : State) : Host.Outcome State Fault Refusal :=
  run s true (tnz d a m)

/-- TCOMP (R157). -/
def tcomp (d a : TileNo) (m : MaskField) : M Unit := do
  let rd ← bound d
  let ra ← bound a
  if rd.tag != ra.tag then raise .typeState
  freshRecs [rd, ra]
  let k ← getBlk
  let mask := k.rm_ m
  withSelector d rd mask do
    let cs := selected (mask.select ra.size) ((k.tile a).ver.cells ra)
    writeCells d rd .rne false false (padTo (zeroCell rd.tag) rd.size cs)

/-- TCOMP (R157). -/
def execTcomp (d a : TileNo) (m : MaskField) (s : State) : Host.Outcome State Fault Refusal :=
  run s true (tcomp d a m)

/-- Hands the cells of `src` to the positions whose bit is set, zero elsewhere and beyond (R157). -/
def expandCells (t : Tag) (sel : List Bool) (src : List Cell) : List Cell :=
  match sel with
  | [] => []
  | true :: r => match src with
    | [] => zeroCell t :: expandCells t r []
    | c :: cs => c :: expandCells t r cs
  | false :: r => zeroCell t :: expandCells t r src

/-- TEXPD (R157): the mask is read over d's indices. -/
def texpd (d a : TileNo) (m : MaskField) : M Unit := do
  let rd ← bound d
  let ra ← bound a
  if rd.tag != ra.tag then raise .typeState
  freshRecs [rd, ra]
  let k ← getBlk
  let mask := k.rm_ m
  withSelector d rd mask do
    writeCells d rd .rne false false
      (expandCells rd.tag (mask.select rd.size) ((k.tile a).ver.cells ra))

/-- TEXPD (R157). -/
def execTexpd (d a : TileNo) (m : MaskField) (s : State) : Host.Outcome State Fault Refusal :=
  run s true (texpd d a m)

/-! ## Scalars and masks from tiles -/

/-- The form in which TGETS returns an element (R157). -/
def getsValue (t : Tag) (scale : Nat) (e : Elem) : SReg :=
  match e with
  | .poison c => SReg.bad c
  | .bits p =>
    if t.isInt then SReg.plain (BitVec.ofInt 64 (intValue t.signed t.width p))
    else if t.narrow then
      SReg.plain (BitVec.ofNat 64
        (Fmt.single.pack .rne ((elemVal t scale (.bits p)).promoteTo t .fp32).toNum))
    else SReg.plain (BitVec.ofNat 64 p)

/-- TGETS (R157). -/
def tgets (d : Reg) (a : TileNo) (b : Reg) : M Unit := do
  let ra ← bound a
  freshRecs [ra]
  let k ← getBlk
  if (k.rs b).poison.isSome then raise .poisonAddr
  let i := (k.sv b).toNat
  if ra.size ≤ i then raise .tileIndex
  let t := (k.tile a).ver
  let e := (t.elements ra).getD i (.bits 0)
  setBlk (k.ws d (getsValue ra.tag (scaleOf t.scales.toArray ra.ncols i) e))

/-- TGETS (R157). -/
def execTgets (d : Reg) (a : TileNo) (b : Reg) (s : State) : Host.Outcome State Fault Refusal :=
  run s true (tgets d a b)

/-- The class of a value (R157): 0 zero, 1 other finite, 2 infinity, 3 NaN or poison. -/
def Val.class_ (v : Val) : Nat :=
  match v with
  | .int n => if n = 0 then 0 else 1
  | .num (.fin _ m _ _) => if m = 0 then 0 else 1
  | .num (.inf _) => 2
  | _ => 3

/-- A mask made from a's elements (R101, R157). -/
def maskFrom (d : MaskField) (a : TileNo) (m : MaskField) (f : Val → Bool) : M Unit := do
  let ra ← bound a
  freshRecs [ra]
  let k ← getBlk
  let mask := k.rm_ m
  match mask.poison with
  | some c => putMask d (MaskReg.ofBits (List.replicate ra.size false) (some c))
  | none =>
    putMask d (MaskReg.ofBits
      (List.zipWith (fun s v => s && f v) (mask.select ra.size) (k.vals a ra)) none)

/-- TCLASS (R157). -/
def execTclass (d : MaskField) (a : TileNo) (m : MaskField) (c : BitVec 4) (s : State) :
    Host.Outcome State Fault Refusal :=
  run s true (maskFrom d a m fun v => c.getLsbD v.class_)

/-- TPMASK (R157). -/
def execTpmask (d : MaskField) (a : TileNo) (m : MaskField) (s : State) :
    Host.Outcome State Fault Refusal :=
  run s true (maskFrom d a m fun v => v.poison.isSome)

/-! ## Major 0x1E -/

/-- Bitwise mask operations (R159). -/
def maskOp (d a b : MaskField) (f : Bool → Bool → Bool) : M Unit := do
  let k ← getBlk
  let x := k.rm_ a
  let y := k.rm_ b
  let n := Nat.max x.n y.n
  putMask d { MaskReg.ofBits ((List.range n).map fun e => f (x.bit e) (y.bit e))
      (mergePoison x.poison y.poison) with fill := f x.fill y.fill }

/-- MAND (R159). -/
def execMand (d a b : MaskField) (s : State) : Host.Outcome State Fault Refusal :=
  run s true (maskOp d a b fun x y => x && y)

/-- MOR (R159). -/
def execMor (d a b : MaskField) (s : State) : Host.Outcome State Fault Refusal :=
  run s true (maskOp d a b fun x y => x || y)

/-- MXOR (R159). -/
def execMxor (d a b : MaskField) (s : State) : Host.Outcome State Fault Refusal :=
  run s true (maskOp d a b fun x y => x != y)

/-- MNOT (R159). -/
def mnot (d a : MaskField) : M Unit := do
  let x := (← getBlk).rm_ a
  putMask d { x with fill := !x.fill, bits := (2 ^ x.n - 1) ^^^ x.bits }

/-- MNOT (R159). -/
def execMnot (d a : MaskField) (s : State) : Host.Outcome State Fault Refusal :=
  run s true (mnot d a)

/-- Number of 1 bits below n (R159). -/
def MaskReg.count (m : MaskReg) : Nat := ((m.select m.n).filter id).length

/-- MPOPC (R159). -/
def mpopc (d : Reg) (a : MaskField) : M Unit := do
  let k ← getBlk
  let x := k.rm_ a
  let v := if x.fill then BitVec.allOnes 64 else BitVec.ofNat 64 x.count
  setBlk (k.ws d (SReg.result x.poison v))

/-- MPOPC (R159). -/
def execMpopc (d : Reg) (a : MaskField) (s : State) : Host.Outcome State Fault Refusal :=
  run s true (mpopc d a)

/-- MFIRST (R159). -/
def mfirst (d : Reg) (a : MaskField) : M Unit := do
  let k ← getBlk
  let x := k.rm_ a
  let v := match (List.range x.n).find? x.bit with
    | some e => BitVec.ofNat 64 e
    | none => if x.fill then BitVec.ofNat 64 x.n else BitVec.allOnes 64
  setBlk (k.ws d (SReg.result x.poison v))

/-- MFIRST (R159). -/
def execMfirst (d : Reg) (a : MaskField) (s : State) : Host.Outcome State Fault Refusal :=
  run s true (mfirst d a)

/-- MSETS (R152, R159): a length of 2³² or more, or one that the grant cannot hold, traps with
TILE_SPACE. -/
def msets (d : MaskField) (a : Reg) : M Unit := do
  let k ← getBlk
  if (k.rs a).poison.isSome then raise .poisonAddr
  let n := (k.sv a).toNat
  if 2 ^ 32 ≤ n then raise .tileSpace
  if d = 0 then pure ()
  else do
    needRows (ceilDiv n k.place.width)
    setBlk (k.wm d { n := n, fill := false, bits := 2 ^ n - 1, poison := none })

/-- MSETS (R159). -/
def execMsets (d : MaskField) (a : Reg) (s : State) : Host.Outcome State Fault Refusal :=
  run s true (msets d a)

/-- The number of 1 bits below each index from 0 on. -/
def prefixCounts (acc : Nat) (bs : List Bool) : List Nat :=
  match bs with
  | [] => []
  | b :: r => acc :: prefixCounts (if b then acc + 1 else acc) r

/-- MPSUM (R159). -/
def mpsum (d : TileNo) (a : MaskField) : M Unit := do
  let rd ← bound d
  if !rd.tag.isInt then raise .typeState
  freshRecs [rd]
  let x := (← getBlk).rm_ a
  withSelector d rd x do
    writeCells d rd .rne false false
      ((prefixCounts 0 (x.select rd.size)).map fun n : Nat => .new (.int n) false .rne)

/-- MPSUM (R159). -/
def execMpsum (d : TileNo) (a : MaskField) (s : State) : Host.Outcome State Fault Refusal :=
  run s true (mpsum d a)

end Sys2Proof.Machine
end

