-- ==== Sys2Proof/Machine/LaneWord.lean ====
section
/-! DEFINITION. The words of a lane-function body: their decoding, element registers, and what each word
does (R74, R75, R163 to R166, R170 to R176). -/
namespace Sys2Proof.Machine

/-! ## Decoding -/

/-- The lane mnemonics (R74). -/
inductive LaneOp where
  | eadd | esub | emul | efma | ediv | esqrt | emin | emax | eabs | ecmp | esel | ecvt | eand | eor
  | exor | eshl | eshr | eacs | epack | eunpk | elut | emovi | eidx | eget | eskip | eend
  deriving DecidableEq, Repr

/-- A decoded body word: registers by number, and minor bits 9:0. -/
structure LaneInsn where
  op : LaneOp
  d : Nat
  a : Nat
  b : Nat
  c : Nat
  imm : BitVec 10
  deriving DecidableEq, Repr

/-- Which register fields a word uses (R74): d, a, b, c. -/
structure LaneUse where
  d : Bool
  a : Bool
  b : Bool
  c : Bool

/-- The operation of a lane major, the fields it uses, and whether its minor is allowed (R74, R170). -/
def laneForm (major : Nat) (m : BitVec 10) : Option (LaneOp × LaneUse × Bool) :=
  let rmOk := (m.extractLsb' 7 3).toNat ≤ 4 && m.extractLsb' 0 7 == 0
  let none_ := m == 0
  let u (d a b c : Bool) : LaneUse := { d := d, a := a, b := b, c := c }
  match major with
  | 0x01 => some (.eadd, u true true true false, rmOk)
  | 0x02 => some (.esub, u true true true false, rmOk)
  | 0x03 => some (.emul, u true true true false, rmOk)
  | 0x04 => some (.efma, u true true true true, rmOk)
  | 0x05 => some (.ediv, u true true true false, rmOk)
  | 0x06 => some (.esqrt, u true true false false, rmOk)
  | 0x07 => some (.emin, u true true true false, none_)
  | 0x08 => some (.emax, u true true true false, none_)
  | 0x09 => some (.eabs, u true true false false, none_)
  | 0x0A => some (.ecmp, u true true true false, m.extractLsb' 0 7 == 0)
  | 0x0B => some (.esel, u true true true true, none_)
  | 0x0C => some (.ecvt, u true true false false,
      (m.extractLsb' 3 3).toNat ≤ 4 && m.extractLsb' 0 2 == 0 && m.extractLsb' 6 4 != 0)
  | 0x0D => some (.eand, u true true true false, none_)
  | 0x0E => some (.eor, u true true true false, none_)
  | 0x0F => some (.exor, u true true true false, none_)
  | 0x10 => some (.eshl, u true true true false, none_)
  | 0x11 => some (.eshr, u true true true false, none_)
  | 0x12 => some (.eacs, u true true true true, none_)
  | 0x13 => some (.epack, u true true true false, none_)
  | 0x14 => some (.eunpk, u true true false false, m.toNat ≤ 1)
  | 0x15 => some (.elut, u true true false false, m.extractLsb' 0 5 == 0)
  | 0x16 => some (.emovi, u true false false false, true)
  | 0x17 => some (.eidx, u true false false false, none_)
  | 0x18 => some (.eget, u true false false false, m.extractLsb' 5 5 == 0)
  | 0x19 => some (.eskip, u false true false false, m.extractLsb' 5 5 == 0 && m != 0)
  | 0x1A => some (.eend, u false false false false, none_)
  | _ => none

/-- Decodes one body word (R74, R170). -/
def laneDecode (w : Insn) : Option LaneInsn :=
  let m := w.extractLsb' 0 10
  let f (lo : Nat) := w.extractLsb' lo 4
  match laneForm (w.extractLsb' 26 6).toNat m with
  | none => none
  | some (op, u, ok) =>
    if ok && (u.d || f 22 == 0) && (u.a || f 18 == 0) && (u.b || f 14 == 0) && (u.c || f 10 == 0) then
      some { op := op, d := (f 22).toNat, a := (f 18).toNat, b := (f 14).toNat, c := (f 10).toNat,
             imm := m }
    else none

/-- The count of ESKIP (R176). -/
def LaneInsn.count (i : LaneInsn) : Nat := (i.imm.extractLsb' 0 5).toNat

/-- Decodes a body; an ESKIP must not reach past the last word (R74). -/
def laneBody (ws : List Insn) : Option (List LaneInsn) :=
  match ws with
  | [] => some []
  | w :: r =>
    match laneDecode w, laneBody r with
    | some i, some is => if i.op == .eskip && r.length < i.count then none else some (i :: is)
    | _, _ => none

/-- The weight of a word (R169). -/
def LaneOp.weight (o : LaneOp) : Nat :=
  match o with
  | .ediv | .esqrt => 16
  | .eadd | .esub | .emul | .efma | .ecvt | .emin | .emax | .eabs | .ecmp | .esel => 4
  | .elut => 2
  | _ => 1

/-! ## Element registers -/

/-- e0 to e15 (R163): untyped where the tag is none; a narrow type keeps its block scale. -/
structure EReg where
  tag : Tag
  pat : Nat
  scale : Nat
  poison : Option Crumb
  deriving DecidableEq, Repr

/-- An untyped register (R164). -/
def EReg.untyped : EReg := { tag := .none, pat := 0, scale := 0, poison := none }

/-- A register filled from a tile element (R164). -/
def EReg.ofElem (t : Tag) (scale : Nat) (e : Elem) : EReg :=
  match e with
  | .bits p => { tag := t, pat := p, scale := scale, poison := none }
  | .poison c => { tag := t, pat := 0, scale := scale, poison := some c }

/-- The value that a register holds. -/
def EReg.val (r : EReg) : Val :=
  match r.poison with
  | some c => .bad c
  | none => patValue r.tag r.scale r.pat

/-- A poisoned register of a type. -/
def EReg.bad (t : Tag) (c : Crumb) : EReg := { tag := t, pat := 0, scale := 127, poison := some c }

/-- A register of a type that is not narrow, from a value of that type. -/
def EReg.ofVal (t : Tag) (v : Val) : EReg :=
  match v with
  | .bad c => EReg.bad t c
  | .int n => { tag := t, pat := intWrap t.width n, scale := 127, poison := none }
  | .num x => { tag := t, pat := t.fmt.pack .rne x, scale := 127, poison := none }

/-- A register of a type from its pattern. -/
def EReg.ofPat (t : Tag) (p : Nat) : EReg := { tag := t, pat := p, scale := 127, poison := none }

/-- A tile that an ELUT reads (R175). -/
structure LutTable where
  t : Nat
  tag : Tag
  cols : Nat
  elems : Array Elem
  scales : Array Nat

/-- What a body sees beside its registers: EIDX, the scalars, the tables, and the poison that a generated
NaN takes (R170, R175). -/
structure LaneCtx where
  idx : Nat
  blk : Block
  tables : List LutTable
  gen : Option Crumb

/-- A body's registers, and whether it generated a NaN that became poison. -/
structure LaneState where
  e : List EReg
  made : Bool

def LaneState.reg (s : LaneState) (i : Nat) : EReg := s.e.getD i EReg.untyped

/-- Writes e_d. -/
def LaneState.put (s : LaneState) (i : Nat) (r : EReg) : LaneState := { s with e := s.e.set i r }

/-- Writes a result; a NaN from operands that are neither NaN nor poison becomes poison (R102, R170). -/
def LaneState.result (s : LaneState) (cx : LaneCtx) (i : Nat) (r : EReg) (srcs : List EReg) :
    LaneState :=
  let clean := !srcs.any fun x => x.val.isNan || x.poison.isSome
  match cx.gen with
  | some c => if clean && r.val.isNan then { s.put i (EReg.bad r.tag c) with made := true }
              else s.put i r
  | none => s.put i r

/-! ## The words -/

/-- The promoted type of typed sources (R75, R170). -/
def laneType (srcs : List EReg) : Option Tag :=
  if srcs.any fun r => r.tag == .none then none else promote (srcs.map (·.tag))

/-- A computation in the promoted type (R170, R171, R172). -/
def laneCompute (ok : Tag → Bool) (rm : Nat) (op : ElemOp) (srcs : List EReg) : Except Cause EReg :=
  match laneType srcs with
  | none => .error .typeState
  | some p =>
    if !ok p || (p.isInt && 1 < rm) then .error .typeState
    else
      match mergeVals (srcs.map (·.val)) with
      | some c => .ok (EReg.bad p c)
      | none =>
        let vs := srcs.map fun r => r.val.promoteTo r.tag p
        .ok (EReg.ofVal p (intoP p p (Round.ofCode rm) (p.isInt && rm == 1) (op p (Round.ofCode rm) vs)))

/-- ECMP (R172). -/
def laneCompare (c : Nat) (x y : EReg) : Except Cause EReg :=
  match laneType [x, y] with
  | none => .error .typeState
  | some p =>
    if p.isInt && 6 ≤ c then .error .typeState
    else match compareBit c [x.val.promoteTo x.tag p, y.val.promoteTo y.tag p] with
      | (_, some c) => .ok (EReg.bad .int32 c)
      | (b, none) => .ok (EReg.ofPat .int32 (if b then 1 else 0))

/-- value(a) ≠ 0 of an integer register. -/
def EReg.nonZero (r : EReg) : Bool := r.val.nonZero

/-- ESEL (R172). -/
def laneSelect (a b c : EReg) : Except Cause EReg :=
  if !a.tag.isInt || b.tag == .none || c.tag == .none then .error .typeState
  else match a.poison with
    | some p => .ok (EReg.bad b.tag p)
    | none => .ok (if a.nonZero then b else c)

/-- The types that ECVT names (R173). -/
def laneTypeCode (n : Nat) : Tag :=
  match n with
  | 10 => .int8
  | 11 => .uint8
  | 12 => .int16
  | 13 => .uint16
  | 14 => .int32
  | 15 => .uint32
  | n => Tag.ofCode n

/-- ECVT (R92, R108, R170, R173): the source is promoted as every word's is; a narrow target outside a block
keeps scale 127; a NaN that it cannot encode gives scale 0xFF. -/
def laneConvert (t : Tag) (rm : Nat) (sat : Bool) (a : EReg) : Except Cause EReg :=
  match laneType [a] with
  | none => .error .typeState
  | some q =>
    match a.val.promoteTo a.tag q with
    | .bad c => .ok (EReg.bad t c)
    | v =>
      if v.isNan && t.isFloat && t.fmt.top == .finite then
        .ok { tag := t, pat := 0, scale := 255, poison := none }
      else match t.packVal (Round.ofCode rm) sat v with
        | .bits p => .ok (EReg.ofPat t p)
        | .poison c => .ok (EReg.bad t c)

/-- pmerge over registers. -/
def mergeRegs (rs : List EReg) : Option Crumb := mergeVals (rs.map (·.val))

/-- One half of EACS (R174). -/
def acsHalf (a b ca cb : Nat) : Nat :=
  let u := Nat.min (a % 2 ^ 15 + ca % 2 ^ 15) 0x7FFF
  let v := Nat.min (b % 2 ^ 15 + cb % 2 ^ 15) 0x7FFF
  if v < u then 0x8000 + v else u

/-- EACS on patterns (R174). -/
def acs (a b c : Nat) : Nat :=
  let hi (x : Nat) := x / 2 ^ 16
  acsHalf (hi a) (hi b) (hi c) c * 2 ^ 16 + acsHalf a b c (hi c)

/-- INT32 or UINT32. -/
def Tag.isWord (t : Tag) : Bool := t == .int32 || t == .uint32

/-- A word that works on patterns and gives an unsigned integer (R174, R175). -/
def lanePattern (ok : Tag → Bool) (t : Tag) (f : List Nat → Nat) (srcs : List EReg) :
    Except Cause EReg :=
  if !srcs.all fun r => ok r.tag then .error .typeState
  else match mergeRegs srcs with
    | some c => .ok (EReg.bad t c)
    | none => .ok (EReg.ofPat t (f (srcs.map (·.pat))))

/-- ELUT (R175): zero of the table's tag outside it. -/
def laneLookup (tables : List LutTable) (t : Nat) (a : EReg) : Except Cause EReg :=
  match tables.find? (·.t == t) with
  | none => .error .typeState
  | some l =>
    if !a.tag.isInt then .error .typeState
    else match a.val with
      | .int x =>
        if 0 ≤ x && x < l.elems.size then
          .ok (EReg.ofElem l.tag (scaleOf l.scales l.cols x.toNat) (l.elems.getD x.toNat (.bits 0)))
        else .ok { tag := l.tag, pat := 0, scale := 0, poison := none }
      | .bad c => .ok (EReg.bad l.tag c)
      | .num _ => .error .typeState

/-- EGET (R175). -/
def laneGet (r : SReg) (old : EReg) : EReg :=
  let t := if old.tag == .none then .int32 else old.tag
  match r.poison with
  | some c => EReg.bad t c
  | none =>
    let p := r.val.toNat % 2 ^ t.width
    EReg.ofPat t (if t.isFloat && !t.narrow && t.fmt.looksPoison p then t.fmt.nanPat else p)

/-- The result of one word that writes e_d, ESKIP and EEND aside. DESIGN CHOICE, log entry 101: of an EPACK source narrower
than 16 bits the pattern is zero-extended, signed types too, since R175 does not say what its upper bits are. -/
def laneResult (cx : LaneCtx) (s : LaneState) (i : LaneInsn) : Except Cause EReg :=
  let a := s.reg i.a
  let b := s.reg i.b
  let c := s.reg i.c
  let rm := (i.imm.extractLsb' 7 3).toNat
  let num (t : Tag) : Bool := t.isFloat
  let int (t : Tag) : Bool := t.isInt
  match i.op with
  | .eadd => laneCompute anyTag rm (binOp (· + ·) Num.add) [a, b]
  | .esub => laneCompute anyTag rm (binOp (· - ·) fun r x y => Num.add r x y.neg) [a, b]
  | .emul => laneCompute anyTag rm (binOp (· * ·) fun _ x y => x.mul y) [a, b]
  | .efma => laneCompute anyTag rm (triOp (fun x y z => x * y + z) (fmaNum false)) [a, b, c]
  | .ediv => laneCompute num rm (binOp (fun x _ => x) fun _ x y => x.div y) [a, b]
  | .esqrt => laneCompute num rm (unOp id Num.sqrt) [a]
  | .emin => laneCompute anyTag 0 (binOp min fun _ x y => x.min y) [a, b]
  | .emax => laneCompute anyTag 0 (binOp max fun _ x y => x.max y) [a, b]
  | .eabs => laneCompute anyTag 0 (unOp (fun x => x.natAbs) Num.abs) [a]
  | .ecmp => laneCompare rm a b
  | .esel => laneSelect a b c
  | .ecvt => laneConvert (laneTypeCode (i.imm.extractLsb' 6 4).toNat) (i.imm.extractLsb' 3 3).toNat
      (i.imm.getLsbD 2) a
  | .eand => laneCompute int 0 (bitOp fun x y => x &&& y) [a, b]
  | .eor => laneCompute int 0 (bitOp fun x y => x ||| y) [a, b]
  | .exor => laneCompute int 0 (bitOp fun x y => x ^^^ y) [a, b]
  | .eshl => laneCompute int 0 (shlOp false) [a, b]
  | .eshr => laneCompute int 0 shrOp [a, b]
  | .eacs => lanePattern Tag.isWord .uint32 (fun ps => acs (ps.getD 0 0) (ps.getD 1 0) (ps.getD 2 0))
      [a, b, c]
  | .epack => lanePattern (fun t => t.isInt || t.isHalf) .uint32
      (fun ps => ps.getD 1 0 % 2 ^ 16 * 2 ^ 16 + ps.getD 0 0 % 2 ^ 16) [a, b]
  | .eunpk => lanePattern Tag.isWord .uint16
      (fun ps => ps.getD 0 0 / 2 ^ (16 * i.imm.toNat) % 2 ^ 16) [a]
  | .elut => laneLookup cx.tables (i.imm.extractLsb' 5 5).toNat a
  | .emovi => .ok (EReg.ofPat .int32 (intWrap 32 i.imm.toInt))
  | .eidx => .ok (EReg.ofPat .int32 (cx.idx % 2 ^ 32))
  | .eget => .ok (laneGet (cx.blk.rs (i.imm.extractLsb' 0 5)) (s.reg i.d))
  | .eskip | .eend => .error .illegal

/-- The registers whose values decide whether a NaN is generated (R102). -/
def LaneInsn.sources (i : LaneInsn) (s : LaneState) : List EReg :=
  match i.op with
  | .efma => [s.reg i.a, s.reg i.b, s.reg i.c]
  | .esqrt | .eabs | .ecvt => [s.reg i.a]
  | _ => [s.reg i.a, s.reg i.b]

/-- The words whose result can be a generated NaN (R102, R170). -/
def LaneOp.computes (o : LaneOp) : Bool :=
  match o with
  | .eadd | .esub | .emul | .efma | .ediv | .esqrt | .ecvt => true
  | _ => false

/-- Runs a body (R165); `skip` words are still to be passed over. DEDUCED, log entry 78: an ESKIP on a poisoned
register of a floating type raises TYPE_STATE, not POISON_BRANCH. -/
def laneRun (cx : LaneCtx) (body : List LaneInsn) (skip : Nat) (s : LaneState) :
    Except Cause LaneState :=
  match body with
  | [] => .ok s
  | i :: r =>
    if skip ≠ 0 then laneRun cx r (skip - 1) s
    else match i.op with
      | .eend => .ok s
      | .eskip =>
        let a := s.reg i.a
        if !a.tag.isInt then .error .typeState
        else if a.poison.isSome then .error .poisonBranch
        else laneRun cx r (if a.nonZero then i.count else 0) s
      | _ =>
        match laneResult cx s i with
        | .error e => .error e
        | .ok v =>
          laneRun cx r 0 (if i.op.computes then s.result cx i.d v (i.sources s) else s.put i.d v)

/-- Runs a body on its input registers: e0 at its end, and whether it generated a NaN. -/
def laneCall (cx : LaneCtx) (body : List LaneInsn) (ins : List EReg) : Except Cause (EReg × Bool) :=
  match laneRun cx body 0 { e := ins ++ List.replicate (16 - ins.length) EReg.untyped, made := false } with
  | .error e => .error e
  | .ok s => .ok (s.reg 0, s.made)

/-- What the exit write gives d (R166), and whether it generates a NaN that becomes poison: an untyped result, or
a floating one for an integer tag, raises TYPE_STATE. DEDUCED, log entry 33: an infinity that breaks its block of
a narrow d is such a NaN (R90, R102). -/
def laneExit (d : Tag) (gen : Option Crumb) (r : EReg) : Except Cause (Cell × Bool) :=
  if r.tag == .none || (r.tag.isFloat && d.isInt) then .error .typeState
  else match gen with
    | some c =>
      if d.narrow && r.val.breaksBlock && !r.val.isNan then .ok (.new (.bad c) false .rne, true)
      else .ok (.new r.val false .rne, false)
    | none => .ok (.new r.val false .rne, false)

end Sys2Proof.Machine
end

