-- ==== Sys2Proof/Machine/LaneFn.lean ====
section
/-! DEFINITION. Lane-function calls: MAP, MAP3, REDUCE, SCAN (R70, R161, R162, R164, R167 to R170, R177). -/
namespace Sys2Proof.Machine

/-! ## Fetching and checking a body -/

/-- A word of code that the instruction needs beside its own: from the loop-capture buffer or through
translation; a fault sends a one-page batch and the block waits as for a fetch (R121, R162). -/
def codeWord (pc : Word) : M Insn := do
  let w ← get
  let b := w.dev.blk
  match b.loop.bind (·.at pc) with
  | some x =>
    modifyDev fun d => d.countFor 13 1
    return x
  | none =>
    match w.translate b.space pc.toNat with
    | (.leaf l, w') =>
      if l.allows b.ps.pl .fetch then
        match w'.codeWord (l.pa pc.toNat) with
        | (some v, w') =>
          set w'
          return BitVec.ofNat 32 v
        | (none, w') =>
          set w'
          stopWith .stay
      else raise .fetchFault
    | (.busy, w') =>
      set w'
      stopWith .stay
    | (.fault, w') =>
      set (w'.blockBatch true [pageOf pc.toNat] true 0 b.csr.fltinfo pc)
      stopWith .stay

/-- `n` words of code from an address. -/
def codeWords (n : Nat) (pc : Word) : M (List Insn) :=
  match n with
  | 0 => return []
  | n + 1 => do
    let x ← codeWord pc
    return x :: (← codeWords n (pc + 4))

/-- The tiles that the ELUT words of a body name (R162). -/
def lutTiles (body : List LaneInsn) : List TileNo :=
  ((body.filter fun i => i.op == .elut).map fun i => i.imm.extractLsb' 5 5).eraseDups

/-- The weight of a body (R169). -/
def bodyWeight (body : List LaneInsn) : Nat := (body.map fun i => i.op.weight).sum

/-- ceil(log2 n), for n from 1 up (R169). -/
def ceilLog2 (n : Nat) : Nat := bitLen_ (n - 1)

/-- The tables of a call. -/
def Block.lutTables (b : Block) (ts : List (TileNo × ShapeRec)) : List LutTable :=
  ts.map fun (t, r) =>
    { t := t.toNat, tag := r.tag, cols := r.ncols, elems := ((b.tile t).ver.elements r).toArray,
      scales := (b.tile t).ver.scales.toArray }

/-- What a call has once its checks have passed. -/
structure LaneSetup where
  rd : ShapeRec
  ra : ShapeRec
  body : List LaneInsn
  tables : List LutTable
  gen : Option Crumb

/-- The checks of rows 1 to 6 of R177. `srcs` are the tiles beside d, `reads` those that the call reads beside its
tables where its mask is not poisoned (R101, R162); `shape` the shapes that R161 asks for; `passes` the number of
passes of R169 for REDUCE and SCAN. The errors in the rows read are met here, so that a call that traps later
leaves nothing of them (R177). -/
def laneSetup (d : TileNo) (srcs reads : List TileNo) (m : MaskField) (l : BitVec 5)
    (shapes : ShapeRec → List ShapeRec → Bool) (passes : Option (ShapeRec → Nat)) : M LaneSetup := do
  let k ← getBlk
  let ws ← codeWords (l.toNat + 1) (k.pc + 4)
  match laneBody ws with
  | none => raise .illegal
  | some body =>
    let rd ← bound d
    let rs ← srcs.mapM bound
    let luts ← (lutTiles body).mapM fun t => do return (t, ← bound t)
    freshRecs (rd :: rs ++ luts.map (·.2))
    if !shapes rd rs then raise .shapeMismatch
    let ra := rs.headD rd
    if luts.any fun x => 4096 < x.2.size then raise .laneLimit
    match passes with
    | none => pure ()
    | some p =>
      if ra.tag.grant k.effShare < ra.size || 256 < p ra * bodyWeight body then raise .laneLimit
    needRows (rd.storage k.place.width)
    if (k.rm_ m).poison.isNone then meetRows (reads ++ lutTiles body)
    let w ← get
    return { rd := rd, ra := ra, body := body, tables := w.dev.blk.lutTables luts,
             gen := if k.csr.poisoncfg.getLsbD 2 then some (w.nextCrumb k.id.ctx) else none }

/-- Raises what a body raised, with the lowest element index (R177). -/
def laneRaise {α : Type} (idx : Nat) (r : Except Cause α) : M α :=
  match r with
  | .ok v => return v
  | .error c => raiseAt c idx

/-- Appends the one entry of a call that generated a NaN: the tile and the element that it names (R170). -/
def laneEntry (t : TileNo) (cols : Nat) (first : Option Nat) : M Unit := do
  match first with
  | none => pure ()
  | some e =>
    let w ← get
    let b := w.dev.blk
    set (w.crumb b.id.ctx
      { kind := 5, form := 1, loc := tileLoc t (e / cols) (e % cols), syn := 0, pc := b.pc,
        engine := false, key := b.id.key }).2

/-- The lesser of two optional indices. -/
def minIndex (a b : Option Nat) : Option Nat :=
  match a, b with
  | none, b => b
  | a, none => a
  | some x, some y => some (Nat.min x y)

/-- The elements of a tile as registers (R164). -/
def Tile.regs (t : Tile) (r : ShapeRec) : List EReg :=
  let sc := t.scales.toArray
  (withIndex 0 (t.elements r)).map fun (i, e) =>
    EReg.ofElem r.tag (if r.tag.narrow && !t.empty then scaleOf sc r.ncols i else
      if r.tag.narrow then 0 else 127) e

/-- The program counter after a call (R161). -/
def afterBody (pc : Word) (l : BitVec 5) : Word := pc + BitVec.ofNat 64 (4 * (2 + l.toNat))

/-! ## MAP and MAP3 -/

/-- Runs the body for each selected element, in ascending order (R165, R166, R177). -/
def mapElems (x : LaneSetup) (b : Block) (e : Nat) (sel : List Bool) (ins : List (List EReg))
    (prior : List Cell) : M (List Cell × Option Nat) :=
  match sel, ins, prior with
  | s :: ss, i :: is, p :: ps => do
    if s then
      let cx : LaneCtx := { idx := e, blk := b, tables := x.tables, gen := x.gen }
      let (r, made) ← laneRaise e (laneCall cx x.body i)
      let (c, broke) ← laneRaise e (laneExit x.rd.tag x.gen r)
      let (cs, f) ← mapElems x b (e + 1) ss is ps
      return (c :: cs, minIndex (if made || broke then some e else none) f)
    else
      let (cs, f) ← mapElems x b (e + 1) ss is ps
      return (p :: cs, f)
  | _, _, _ => return ([], none)

/-- The inputs of each element, from one list for each input register. -/
def zipInputs (xs : List (List EReg)) : List (List EReg) :=
  match xs with
  | [] => []
  | [a] => a.map fun x => [x]
  | a :: r => List.zipWith (· :: ·) a (zipInputs r)

/-- MAP and MAP3 (R161, R162). -/
def mapCall (d a b : TileNo) (m : MaskField) (l : BitVec 5) (three : Bool) : M Word := do
  let x ← laneSetup d [a, b] ([a, b] ++ if three then [d] else keptDest m d) m l
    (fun rd rs => rs.all fun r => r.sameShape rd) none
  let k ← getBlk
  let rb ← bound b
  let mask := k.rm_ m
  match mask.poison with
  | some c => poisonTile d x.rd c
  | none =>
    let ins := [(k.tile a).ver.regs x.ra, (k.tile b).ver.regs rb] ++
      (if three then [(k.tile d).ver.regs x.rd] else [])
    let (cs, first) ← mapElems x k 0 (mask.select x.rd.size) (zipInputs ins) (k.priorCells d x.rd)
    laneEntry d x.rd.ncols first
    writeCells d x.rd .rne false false cs
  return afterBody k.pc l

/-- MAP (R161). -/
def execMap (d a b : TileNo) (m : MaskField) (l : BitVec 5) (s : State) :
    Host.Outcome State Fault Refusal :=
  runTo s true (mapCall d a b m l false)

/-- MAP3 (R161). -/
def execMap3 (d a b : TileNo) (m : MaskField) (l : BitVec 5) (s : State) :
    Host.Outcome State Fault Refusal :=
  runTo s true (mapCall d a b m l true)

/-! ## REDUCE and SCAN -/

/-- A running value: absent, or a register with the index of its first element, and the lowest index at
which a NaN was generated (R167, R168, R175). -/
structure Running where
  v : Option (EReg × Nat)
  first : Option Nat

/-- One combining step (R167, R168): poison of either operand stays in the result. -/
def laneStep (x : LaneSetup) (b : Block) (p q : EReg × Nat) : Except (Cause × Nat) (EReg × Option Nat) :=
  let cx : LaneCtx := { idx := q.2, blk := b, tables := x.tables, gen := x.gen }
  match laneCall cx x.body [p.1, q.1] with
  | .error c => .error (c, q.2)
  | .ok (r, made) =>
    let r := if p.1.poison.isSome || q.1.poison.isSome then
        { r with poison := mergePoison p.1.poison (mergePoison q.1.poison r.poison) }
      else r
    .ok (r, if made then some q.2 else none)

/-- node of R167 over running values. DEDUCED, log entry 34: an operand's first element is its first selected one
(R175). -/
def laneNode (x : LaneSetup) (b : Block) (p q : Except (Cause × Nat) Running) :
    Except (Cause × Nat) Running :=
  match p, q with
  | .error e, _ => .error e
  | _, .error e => .error e
  | .ok p, .ok q =>
    match p.v, q.v with
    | none, _ => .ok { q with first := minIndex p.first q.first }
    | _, none => .ok { p with first := minIndex p.first q.first }
    | some u, some v =>
      match laneStep x b u v with
      | .error e => .error e
      | .ok (r, f) => .ok { v := some (r, u.2), first := minIndex f (minIndex p.first q.first) }

/-- The leaves of a row: its selected elements (R167). -/
def laneLeaves (e : Nat) (sel : List Bool) (rs : List EReg) : List (Except (Cause × Nat) Running) :=
  match sel, rs with
  | s :: ss, r :: rr =>
    .ok { v := if s then some (r, e) else none, first := none } :: laneLeaves (e + 1) ss rr
  | _, _ => []

/-- Narrows a running value at an element (R166 to R168); an absent one is zero. -/
def laneOut (x : LaneSetup) (e : Nat) (r : Except (Cause × Nat) Running) : M (Cell × Option Nat) :=
  match r with
  | .error (c, i) => raiseAt c i
  | .ok y => do
    match y.v with
    | none => return (zeroCell x.rd.tag, y.first)
    | some (v, _) =>
      let (c, broke) ← laneRaise e (laneExit x.rd.tag x.gen v)
      return (c, minIndex (if broke then some e else none) y.first)

/-- Narrows the results of a line, from element `e` on. -/
def laneOuts (x : LaneSetup) (e : Nat) (rs : List (Except (Cause × Nat) Running)) :
    M (List Cell × Option Nat) :=
  match rs with
  | [] => return ([], none)
  | r :: rr => do
    let (c, f) ← laneOut x e r
    let (cs, g) ← laneOuts x (e + 1) rr
    return (c :: cs, minIndex f g)

/-- The rows of a REDUCE or SCAN, from row `i` on. DEDUCED, log entry 79: the exit write of a row of a REDUCE is at
a's index i × C, for TRAPTILE too (R177). -/
def laneRows (x : LaneSetup) (b : Block) (scan_ : Bool) (i : Nat) (sel : List (List Bool))
    (rows : List (List EReg)) : M (List Cell × Option Nat) :=
  match sel, rows with
  | s :: ss, r :: rr => do
    let ls := laneLeaves (i * x.ra.ncols) s r
    let node := laneNode x b
    let outs := if scan_ then prefixes node ls
      else [tree node (ls.length + 1) ls (.ok { v := none, first := none })]
    let (cs, f) ← laneOuts x (i * x.ra.ncols) outs
    let (cr, g) ← laneRows x b scan_ (i + 1) ss rr
    return (cs ++ cr, minIndex f g)
  | _, _ => return ([], none)

/-- REDUCE and SCAN (R161, R162, R167, R168). -/
def lineCall (d a : TileNo) (m : MaskField) (l : BitVec 5) (scan_ : Bool) : M Word := do
  let x ← laneSetup d [a] [a] m l
    (fun rd rs => rs.all fun r => rd.rows == r.rows && rd.ncols == (if scan_ then r.ncols else 1))
    (some fun r => if scan_ then r.ncols else ceilLog2 r.ncols)
  let k ← getBlk
  let mask := k.rm_ m
  match mask.poison with
  | some c => poisonTile d x.rd c
  | none =>
    let sel := chunks x.ra.rows x.ra.ncols (mask.select x.ra.size)
    let rows := chunks x.ra.rows x.ra.ncols ((k.tile a).ver.regs x.ra)
    let (cs, first) ← laneRows x k scan_ 0 sel rows
    laneEntry a x.ra.ncols first
    writeCells d x.rd .rne false false cs
  return afterBody k.pc l

/-- REDUCE (R167). -/
def execReduce (d a : TileNo) (m : MaskField) (l : BitVec 5) (s : State) :
    Host.Outcome State Fault Refusal :=
  runTo s true (lineCall d a m l false)

/-- SCAN (R168). -/
def execScan (d a : TileNo) (m : MaskField) (l : BitVec 5) (s : State) :
    Host.Outcome State Fault Refusal :=
  runTo s true (lineCall d a m l true)

end Sys2Proof.Machine
end

