-- ==== Sys2Proof/Machine/LinkMsgs.lean ====
section
/-! DEFINITION. The Sloig Link messages that arrive, and the events of its ports (R383 to R388, R430). -/
namespace Sys2Proof.Machine

/-- The line number of a message, in the home's own addresses: PA[48:7] (R384). -/
def homeLine (line : Nat) : Nat := line % 2 ^ 42

/-! ## Requests and writes at the home -/

/-- RD_S (R386, R430). -/
def execRdS (p line tag : Nat) (s : State) : Host.Outcome State Fault Refusal :=
  event s fun w => w.request (homeLine line) (.rdS p tag)

/-- RD_X (R386, R430). -/
def execRdX (p line tag : Nat) (s : State) : Host.Outcome State Fault Refusal :=
  event s fun w => w.request (homeLine line) (.rdX p tag)

/-- UPG (R386, R430): it is answered with DATA, as R430 gives for each state that names `p`. -/
def execUpg (p line tag : Nat) (s : State) : Host.Outcome State Fault Refusal :=
  event s fun w => w.request (homeLine line) (.rdX p tag)

/-- WB (R386). -/
def execWb (p line tag : Nat) (data : List Byte) (bad : Bool) (s : State) : Host.Outcome State Fault Refusal :=
  event s fun w => w.takeWb (homeLine line) p tag data bad

/-- UC_RD (R386). -/
def execUcRd (p line tag : Nat) (s : State) : Host.Outcome State Fault Refusal :=
  event s fun w => w.request (homeLine line) (.ucRd p tag)

/-- UC_WR (R386). -/
def execUcWr (p line tag mask : Nat) (data : List Byte) (bad : Bool) (s : State) :
    Host.Outcome State Fault Refusal :=
  event s fun w => w.request (homeLine line) (.ucWr p tag mask data bad)

/-- An ATOM that the home performs (R384): operations 0 to 12, 11 and 12 on floating formats, at a multiple of its
width. -/
def atomOk (op : Nat) (wide : Bool) (offset : Nat) : Bool :=
  op ≤ 12 && offset < 128 && offset % (if wide then 8 else 4) == 0

/-- ATOM (R384, R386): another operation is dropped with a record. -/
def Work.takeAtom (w : Work) (p line tag op : Nat) (wide : Bool) (offset : Nat) (operand expected : Word)
    (bad : Bool) : Work :=
  if atomOk op wide offset then w.request line (.atom p tag op wide offset operand expected bad)
  else w.logLink (line * 128)

/-- ATOM (R384). -/
def execAtom (p line tag op : Nat) (wide : Bool) (offset : Nat) (operand expected : Word) (bad : Bool)
    (s : State) : Host.Outcome State Fault Refusal :=
  event s fun w => w.takeAtom p (homeLine line) tag op wide offset operand expected bad

/-! ## Messages to a holder -/

/-- The copy of a home's line that this device holds. -/
def Dev.heldLine (d : Dev) (home line : Nat) : Option HeldLine :=
  d.link.held.find? fun h => h.home == home && h.line == line

/-- INV and RECALL at a holder (R386): an owner first invalidates every copy that it has forwarded. -/
def Work.letGo (w : Work) (home line tag : Nat) (pull : Bool) : Work :=
  let here := lineOf (peerPa home line)
  match w.dev.heldLine home line with
  | some h =>
    if h.forwarded = [] then w.giveUp here home tag pull
    else
      let (own, d) := w.dev.takeTag
      let t : Txn := { line := here, kind := .giveUp home tag pull, tag := own, awaiting := h.forwarded,
                       wbFrom := none }
      let w := { w with dev := { d with link := { d.link with txns := d.link.txns ++ [t] } } }
      h.forwarded.foldl (fun w q => w.post (plainMsg .inv q own line) line) w
  | none => w.giveUp here home tag pull

/-- INV (R386). -/
def execInv (p line tag : Nat) (s : State) : Host.Outcome State Fault Refusal :=
  event s fun w => w.letGo p (homeLine line) tag false

/-- RECALL (R386). -/
def execRecall (p line tag : Nat) (s : State) : Host.Outcome State Fault Refusal :=
  event s fun w => w.letGo p (homeLine line) tag true

/-- Changes a line that this device holds. -/
def Dev.onHeld (d : Dev) (home line : Nat) (f : HeldLine → HeldLine) : Dev :=
  { d with link := { d.link with held := d.link.held.map fun h =>
      if h.home = home && h.line = line then f h else h } }

/-- FWD_S (R386): the holder sends DATA to the requester and keeps the line as owner; with no copy it has nothing to
send, and says so to the home. -/
def Work.forwardShared (w : Work) (home line tag dest : Nat) : Work :=
  match w.dev.heldLine home line with
  | some h =>
    let d := w.dev.onHeld home line fun h => { h with owner := true, forwarded := (h.forwarded ++ [dest]).eraseDups }
    ({ w with dev := d }).post { plainMsg .data dest tag line with poison := h.poison, data := h.data } line
  | none => w.post (plainMsg .invAck home tag line) line

/-- FWD_S (R386). -/
def execFwdS (p line tag dest : Nat) (s : State) : Host.Outcome State Fault Refusal :=
  event s fun w => w.forwardShared p (homeLine line) tag dest

/-- RE_HOME (R286, R386): the copy takes its new line number and keeps its state; the holder acknowledges. -/
def Work.rename (w : Work) (home line tag new : Nat) : Work :=
  let d := w.dev.onHeld home line fun h => { h with line := new }
  ({ w with dev := d }).post (plainMsg .ack home tag line) line

/-- RE_HOME (R386). -/
def execReHome (p line tag newLine : Nat) (s : State) : Host.Outcome State Fault Refusal :=
  event s fun w => w.rename p (homeLine line) tag (homeLine newLine)

/-! ## Responses -/

/-- DATA (R386). -/
def execData (p tag : Nat) (bytes : List Byte) (bad : Bool) (s : State) : Host.Outcome State Fault Refusal :=
  event s fun w => w.takeData p tag bytes bad

/-- ACK (R386). -/
def execAck (p tag : Nat) (s : State) : Host.Outcome State Fault Refusal :=
  event s fun w => w.takeDone p tag [] false

/-- INV_ACK (R386). -/
def execInvAck (p tag : Nat) (s : State) : Host.Outcome State Fault Refusal :=
  event s fun w => w.takeInvAck p tag

/-- ATOM_RSP (R384). -/
def execAtomRsp (p tag : Nat) (old : Word) (bad : Bool) (s : State) : Host.Outcome State Fault Refusal :=
  event s fun w => w.takeDone p tag (natLe 8 old.toNat) bad

/-! ## Ports -/

/-- REPLAY_REQUEST (R383): the partner has received up to `seq`; every later flit is sent again, from the replay
buffer, under its own number. -/
def Port.replayFrom (p : Port) (seq : Nat) : Port :=
  let left := (p.seq + 4096 - (seq + 1) % 4096) % 4096
  if left ≤ p.replay.length then { p with acked := seq % 4096, replay := p.replay.drop (p.replay.length - left) } else p

/-- REPLAY_REQUEST (R383). -/
def execReplayRequest (port seq : Nat) (s : State) : Host.Outcome State Fault Refusal :=
  event s fun w => { w with dev := w.dev.onPort port fun p => p.replayFrom seq }

/-- FLIT_CRC_FAILURE (R383): the flit is dropped and a replay request is sent. -/
def execFlitCrcFailure (port : Nat) (s : State) : Host.Outcome State Fault Refusal :=
  event s fun w => { w with dev := w.dev.onPort port fun p => { p with asked := p.asked + 1 } }

/-- Sends messages that waited, or that a port could not deliver, on the ports that R385 now chooses. -/
def Work.resend (w : Work) (ms : List Msg) : Work :=
  match ms with
  | [] => w
  | m :: r => (w.onWire m).resend r

/-- Sends what waits for a live port (R388). -/
def Work.flushUnsent (w : Work) : Work :=
  let l := w.dev.link
  ({ w with dev := { w.dev with link := { l with unsent := [] } } }).resend l.unsent

/-- The lanes that a port trains to (R387, R388): 4, 2, or 1 under version 2; else it is down. -/
def trainedLanes (version lanes : Nat) : Nat :=
  if 4 ≤ lanes then 4 else if 2 ≤ lanes then 2 else if lanes = 1 && version = 2 then 1 else 0

/-- A port after training (R387): the version is the lower of both ends'; this end's highest is 2. The partner's port number
is free, log entry 20. -/
def Port.train (p : Port) (version lanes partner at_ : Nat) : Port :=
  let v := if 1 ≤ version then Nat.min version 2 else 0
  let n := if v = 0 then 0 else trainedLanes v lanes
  { p with lanes := n, version := if n = 0 then 0 else v, partner := partner % 1024, partnerPort := at_ % 24,
           training := n != 0 }

/-- TRAINING (R387, R388): what had no live port goes out. -/
def Work.trainPort (w : Work) (port version lanes partner : Nat) : Work :=
  if port < 24 then
    let n := w.dev.fresh
    let d := { w.dev with fresh := n + 1 }
    ({ w with dev := d.onPort port fun p => p.train version lanes partner (Config.freeChoice n) }).reportUnits.flushUnsent
  else w

/-- TRAINING (R387). -/
def execTraining (port version lanes partner : Nat) (s : State) : Host.Outcome State Fault Refusal :=
  event s fun w => w.trainPort port version lanes partner

/-- The lanes of a port after one fails (R388). -/
def Port.lanesLeft (p : Port) : Nat := trainedLanes p.version (p.lanes - 1)

/-- LANE_FAILURE (R388): a port with no lane left is down, and what its partner has not acknowledged goes out on the
ports that R385 now chooses. -/
def Work.loseLane (w : Work) (port : Nat) : Work :=
  match w.dev.link.ports.toList[port]? with
  | none => w
  | some p =>
    if p.lanes = 0 then w
    else if p.lanesLeft != 0 then
      ({ w with dev := w.dev.onPort port fun p => { p with lanes := p.lanesLeft, training := true } }).reportUnits
    else
      let d := w.dev.onPort port fun p => { p with lanes := 0, version := 0, training := false, replay := [] }
      ({ w with dev := d }).reportUnits.resend p.replay

/-- LANE_FAILURE (R388). -/
def execLaneFailure (port : Nat) (s : State) : Host.Outcome State Fault Refusal :=
  event s fun w => w.loseLane port

/-! ## Lost messages -/

/-- A request of this device whose message is lost (R388): a write counts as acknowledged, a read returns poison. -/
def Work.loseReq (w : Work) (r : Req) : Work :=
  match r.kind with
  | .read | .atomic => { w with dev := w.dev.complete r [] true }
  | .write | .inv | .reHome => { w with dev := w.dev.complete r [] false }
  | .recall => { w.setPoison r.line true with dev := w.dev.complete r [] false }

/-- A party whose message of a home transaction is lost (R388): it counts as acknowledged, and the data of a dirty
line is poison. -/
def Work.loseParty (w : Work) (t : Txn) (p : Nat) : Work :=
  let dirty := regionOf (t.line * 128) != 3 && heldState (metaState (w.homeMeta t.line))
  (if dirty then w.setPoison t.line true else w).answered t p

/-- MESSAGE_LOST (R388): a message that has had no live route for 10 ms. A response echoes the tag of its receiver's request
and ends nothing here. -/
def Work.loseMessage (w : Work) (tag : Nat) : Work :=
  let l := w.dev.link
  match l.unsent.find? fun m => m.tag == tag && m.overdue w.dev.clock with
  | none => w
  | some m =>
    let w := { w with dev := { w.dev with link := { l with unsent := l.unsent.erase m } } }
    let w := w.logLink 0
    if opClass m.op = 3 then w
    else match w.dev.reqOf m.dest tag, w.dev.txnOf m.dest tag with
      | some r, _ => w.loseReq r
      | none, some t => w.loseParty t m.dest
      | none, none => w

/-- MESSAGE_LOST (R388). -/
def execMessageLost (tag : Nat) (s : State) : Host.Outcome State Fault Refusal :=
  event s fun w => w.loseMessage tag

/-- CXL_COMPLETION_TIMEOUT (R388): a lost read of the line returns poison, a lost write counts as done. -/
def Work.loseCxl (w : Work) (write : Bool) (line : Nat) : Work :=
  let r := regionOf (line * 128)
  if r = 1 || r = 2 then
    let w := w.logLink (line * 128)
    let l := w.dev.link
    if write || l.lost.contains line then w
    else { w with dev := { w.dev with link := { l with lost := l.lost ++ [line] } } }
  else w

/-- CXL_COMPLETION_TIMEOUT (R388). -/
def execCxlCompletionTimeout (r : CxlRequest) (s : State) : Host.Outcome State Fault Refusal :=
  event s fun w => w.loseCxl r.write r.line

end Sys2Proof.Machine
end

