-- ==== Sys2Proof/Machine/Scalar.lean ====
section
/-! DEFINITION. Scalar arithmetic, immediates, compares and predicate logic (R117, R118, R122 to R128). -/
namespace Sys2Proof.Machine

/-! ## Shared forms -/

/-- s_d := f(s_a, s_b), with pmerge over both operands (R118). -/
def scalar2 (s : State) (d a b : Reg) (f : Word → Word → Word) : Host.Outcome State Fault Refusal :=
  let k := s.dev.blk
  done s (k.ws d (SReg.result (mergePoison (k.rs a).poison (k.rs b).poison) (f (k.sv a) (k.sv b))))

/-- s_d := f(s_a) (R118). -/
def scalar1 (s : State) (d a : Reg) (f : Word → Word) : Host.Outcome State Fault Refusal :=
  let k := s.dev.blk
  done s (k.ws d (SReg.result (k.rs a).poison (f (k.sv a))))

/-- p_d := f(s_a, s_b) (R127). -/
def compare2 (s : State) (d : PredReg) (x y : SReg) (c : Nat) : Host.Outcome State Fault Refusal :=
  done s (s.dev.blk.wp d (PReg.result (mergePoison x.poison y.poison) (condition c x.val y.val)))

/-- p_d := f(p_a, p_b); a poisoned source poisons the result (R128). -/
def pred2 (s : State) (d a b : PredReg) (f : Bool → Bool → Bool) : Host.Outcome State Fault Refusal :=
  let k := s.dev.blk
  done s (k.wp d (PReg.result (mergePoison (k.rp_ a).poison (k.rp_ b).poison)
    (f (k.rp_ a).val (k.rp_ b).val)))

/-! ## The operations of R122 and R123 -/

/-- The amount of a shift by a register: bits 5:0 (R122). -/
def shiftAmount (b : Word) : Nat := (b.extractLsb' 0 6).toNat

/-- Bits 127:64 of the signed product (R122). -/
def mulHigh (a b : Word) : Word := BitVec.ofInt 64 (a.toInt * b.toInt / 2 ^ 64)

/-- Bits 127:64 of the unsigned product (R122). -/
def mulHighU (a b : Word) : Word := BitVec.ofNat 64 (a.toNat * b.toNat / 2 ^ 64)

/-- The signed quotient of R123: towards zero; −1 for a divisor of 0. -/
def divSigned (a b : Word) : Word :=
  if b = 0 then BitVec.ofInt 64 (-1) else BitVec.ofInt 64 (a.toInt.tdiv b.toInt)

/-- The signed remainder of R123: the dividend's sign; the dividend for a divisor of 0. -/
def remSigned (a b : Word) : Word :=
  if b = 0 then a else BitVec.ofInt 64 (a.toInt.tmod b.toInt)

/-- The unsigned quotient of R123; all ones for a divisor of 0. -/
def divUnsigned (a b : Word) : Word :=
  if b = 0 then BitVec.allOnes 64 else BitVec.ofNat 64 (a.toNat / b.toNat)

/-- The unsigned remainder of R123. -/
def remUnsigned (a b : Word) : Word := if b = 0 then a else BitVec.ofNat 64 (a.toNat % b.toNat)

/-- Left rotation (R122). -/
def rotLeft (a : Word) (n : Nat) : Word := a.rotateLeft n

/-- Number of one bits among the lowest `n`. -/
def onesBelow (a : Word) (n : Nat) : Nat :=
  match n with
  | 0 => 0
  | k + 1 => onesBelow a k + (if a.getLsbD k then 1 else 0)

/-- Number of zero bits from bit `n - 1` downward to the first one. -/
def zerosFrom (a : Word) (n : Nat) : Nat :=
  match n with
  | 0 => 0
  | k + 1 => if a.getLsbD k then 0 else zerosFrom a k + 1

/-- Number of zero bits from bit `64 - n` upward to the first one. -/
def zerosUp (a : Word) (n : Nat) : Nat :=
  match n with
  | 0 => 0
  | k + 1 => if a.getLsbD (63 - k) then 0 else zerosUp a k + 1

/-- Leading zeros; 64 for 0 (R122). -/
def countLeading (a : Word) : Word := BitVec.ofNat 64 (zerosFrom a 64)

/-- Trailing zeros; 64 for 0 (R122). -/
def countTrailing (a : Word) : Word := BitVec.ofNat 64 (zerosUp a 64)

/-- Ones (R122). -/
def popCount (a : Word) : Word := BitVec.ofNat 64 (onesBelow a 64)

/-- BFX (R122): `len` bits from bit `n` up, bits above 63 zero. -/
def extractField (a b : Word) (len : Nat) : Word :=
  BitVec.ofNat 64 (a.toNat / 2 ^ shiftAmount b % 2 ^ len)

/-- The ones of a field of `len` bits from bit `n`, cut at bit 63. -/
def fieldMask (n len : Nat) : Word := BitVec.ofNat 64 ((2 ^ len - 1) * 2 ^ n)

/-- BFI (R122): bits of d from bit `n` replaced by the low `len` bits of a. -/
def insertField (d a b : Word) (len : Nat) : Word :=
  let n := shiftAmount b
  (d &&& ~~~fieldMask n len) ||| ((a <<< n) &&& fieldMask n len)

def minSigned (a b : Word) : Word := if b.slt a then b else a
def maxSigned (a b : Word) : Word := if a.slt b then b else a
def minUnsigned (a b : Word) : Word := if b.ult a then b else a
def maxUnsigned (a b : Word) : Word := if a.ult b then b else a

/-! ## Major 0x01 -/

/-- ADD: wrap64(a + b) (R122). -/
def execAdd (d a b : Reg) (s : State) : Host.Outcome State Fault Refusal :=
  scalar2 s d a b (fun x y => x + y)

/-- SUB: wrap64(a − b) (R122). -/
def execSub (d a b : Reg) (s : State) : Host.Outcome State Fault Refusal :=
  scalar2 s d a b (fun x y => x - y)

/-- MUL: wrap64(a × b) (R122). -/
def execMul (d a b : Reg) (s : State) : Host.Outcome State Fault Refusal :=
  scalar2 s d a b (fun x y => x * y)

/-- MULH: the high half of the signed product (R122). -/
def execMulh (d a b : Reg) (s : State) : Host.Outcome State Fault Refusal :=
  scalar2 s d a b mulHigh

/-- MULHU: the high half of the unsigned product (R122). -/
def execMulhu (d a b : Reg) (s : State) : Host.Outcome State Fault Refusal :=
  scalar2 s d a b mulHighU

/-- DIV: the signed quotient (R123). -/
def execDiv (d a b : Reg) (s : State) : Host.Outcome State Fault Refusal :=
  scalar2 s d a b divSigned

/-- DIVU: the unsigned quotient (R123). -/
def execDivu (d a b : Reg) (s : State) : Host.Outcome State Fault Refusal :=
  scalar2 s d a b divUnsigned

/-- REM: the signed remainder (R123). -/
def execRem (d a b : Reg) (s : State) : Host.Outcome State Fault Refusal :=
  scalar2 s d a b remSigned

/-- REMU: the unsigned remainder (R123). -/
def execRemu (d a b : Reg) (s : State) : Host.Outcome State Fault Refusal :=
  scalar2 s d a b remUnsigned

/-- AND: a and b (R122). -/
def execAnd (d a b : Reg) (s : State) : Host.Outcome State Fault Refusal :=
  scalar2 s d a b (fun x y => x &&& y)

/-- OR: a or b (R122). -/
def execOr (d a b : Reg) (s : State) : Host.Outcome State Fault Refusal :=
  scalar2 s d a b (fun x y => x ||| y)

/-- XOR: a xor b (R122). -/
def execXor (d a b : Reg) (s : State) : Host.Outcome State Fault Refusal :=
  scalar2 s d a b (fun x y => x ^^^ y)

/-- ANDN: a and not b (R122). -/
def execAndn (d a b : Reg) (s : State) : Host.Outcome State Fault Refusal :=
  scalar2 s d a b (fun x y => x &&& ~~~y)

/-- SHL: wrap64(a << n) (R122). -/
def execShl (d a b : Reg) (s : State) : Host.Outcome State Fault Refusal :=
  scalar2 s d a b (fun x y => x <<< shiftAmount y)

/-- SHR: zext(a) div 2ⁿ (R122). -/
def execShr (d a b : Reg) (s : State) : Host.Outcome State Fault Refusal :=
  scalar2 s d a b (fun x y => x >>> shiftAmount y)

/-- SRA: sext(a) div 2ⁿ (R122). -/
def execSra (d a b : Reg) (s : State) : Host.Outcome State Fault Refusal :=
  scalar2 s d a b (fun x y => x.sshiftRight (shiftAmount y))

/-- ROT: a left rotation (R122). -/
def execRot (d a b : Reg) (s : State) : Host.Outcome State Fault Refusal :=
  scalar2 s d a b (fun x y => rotLeft x (shiftAmount y))

/-- MIN: the signed lesser (R122). -/
def execMin (d a b : Reg) (s : State) : Host.Outcome State Fault Refusal :=
  scalar2 s d a b minSigned

/-- MAX: the signed greater (R122). -/
def execMax (d a b : Reg) (s : State) : Host.Outcome State Fault Refusal :=
  scalar2 s d a b maxSigned

/-- MINU: the unsigned lesser (R122). -/
def execMinu (d a b : Reg) (s : State) : Host.Outcome State Fault Refusal :=
  scalar2 s d a b minUnsigned

/-- MAXU: the unsigned greater (R122). -/
def execMaxu (d a b : Reg) (s : State) : Host.Outcome State Fault Refusal :=
  scalar2 s d a b maxUnsigned

/-- CLZ: the number of leading zeros (R122). -/
def execClz (d a : Reg) (s : State) : Host.Outcome State Fault Refusal :=
  scalar1 s d a countLeading

/-- CTZ: the number of trailing zeros (R122). -/
def execCtz (d a : Reg) (s : State) : Host.Outcome State Fault Refusal :=
  scalar1 s d a countTrailing

/-- POPC: the number of one bits (R122). -/
def execPopc (d a : Reg) (s : State) : Host.Outcome State Fault Refusal :=
  scalar1 s d a popCount

/-- BFX: a field of s_a (R122). -/
def execBfx (d a b : Reg) (l : BitVec 6) (s : State) : Host.Outcome State Fault Refusal :=
  scalar2 s d a b (fun x y => extractField x y (bitLen l))

/-- BFI: a field of s_a into s_d, which is a third source (R122). -/
def execBfi (d a b : Reg) (l : BitVec 6) (s : State) : Host.Outcome State Fault Refusal :=
  let k := s.dev.blk
  let c := mergePoison (k.rs d).poison (mergePoison (k.rs a).poison (k.rs b).poison)
  done s (k.ws d (SReg.result c (insertField (k.sv d) (k.sv a) (k.sv b) (bitLen l))))

/-- SEL: the chosen operand with its poison; a poisoned predicate gives its origin alone (R118, R122). -/
def execSel (d a b : Reg) (p : PredReg) (s : State) : Host.Outcome State Fault Refusal :=
  let k := s.dev.blk
  let q := k.rp_ p
  done s (k.ws d (match q.poison with
    | some c => SReg.bad c
    | none => if q.val then k.rs a else k.rs b))

/-! ## Immediates and addresses -/

/-- ADDI: wrap64(a + sext(imm16)) (R124). -/
def execAddi (d a : Reg) (i : BitVec 16) (s : State) : Host.Outcome State Fault Refusal :=
  scalar1 s d a (fun x => x + sext16 i)

/-- ANDI: a and zext(imm16) (R124). -/
def execAndi (d a : Reg) (i : BitVec 16) (s : State) : Host.Outcome State Fault Refusal :=
  scalar1 s d a (fun x => x &&& zext16 i)

/-- ORI: a or zext(imm16) (R124). -/
def execOri (d a : Reg) (i : BitVec 16) (s : State) : Host.Outcome State Fault Refusal :=
  scalar1 s d a (fun x => x ||| zext16 i)

/-- XORI: a xor zext(imm16) (R124). -/
def execXori (d a : Reg) (i : BitVec 16) (s : State) : Host.Outcome State Fault Refusal :=
  scalar1 s d a (fun x => x ^^^ zext16 i)

/-- SHLI: SHL by c (R124). -/
def execShli (d a : Reg) (c : BitVec 6) (s : State) : Host.Outcome State Fault Refusal :=
  scalar1 s d a (fun x => x <<< c.toNat)

/-- SHRI: SHR by c (R124). -/
def execShri (d a : Reg) (c : BitVec 6) (s : State) : Host.Outcome State Fault Refusal :=
  scalar1 s d a (fun x => x >>> c.toNat)

/-- SRAI: SRA by c (R124). -/
def execSrai (d a : Reg) (c : BitVec 6) (s : State) : Host.Outcome State Fault Refusal :=
  scalar1 s d a (fun x => x.sshiftRight c.toNat)

/-- ROTI: ROT by c (R124). -/
def execRoti (d a : Reg) (c : BitVec 6) (s : State) : Host.Outcome State Fault Refusal :=
  scalar1 s d a (fun x => rotLeft x c.toNat)

/-- LUI: sext(imm21) << 16, never poisoned (R125). -/
def execLui (d : Reg) (i : BitVec 21) (s : State) : Host.Outcome State Fault Refusal :=
  done s (s.dev.blk.ws d (SReg.plain (upper i)))

/-- AUIPC: the word's address plus sext(imm21) << 16, never poisoned (R125). -/
def execAuipc (d : Reg) (i : BitVec 21) (s : State) : Host.Outcome State Fault Refusal :=
  done s (s.dev.blk.ws d (SReg.plain (s.dev.blk.pc + upper i)))

/-- The exact sum of ADDX: zext(s_a) + sext(s_b) × 2^scale (R126). -/
def addxSum (a b : Word) (n : Nat) : Int := (a.toNat : Int) + b.toInt * 2 ^ n

/-- ADDX: traps with ADDX_OVERFLOW outside 0 to 2⁶⁴ − 1; poison makes no range check (R126). -/
def execAddx (d a b : Reg) (n : BitVec 3) (s : State) : Host.Outcome State Fault Refusal :=
  let k := s.dev.blk
  let v := addxSum (k.sv a) (k.sv b) n.toNat
  match mergePoison (k.rs a).poison (k.rs b).poison with
  | some c => done s (k.ws d (SReg.bad c))
  | none =>
    if v < 0 ∨ 2 ^ 64 ≤ v then trapNow s .addxOverflow
    else done s (k.ws d (SReg.plain (BitVec.ofInt 64 v)))

/-! ## Compares and predicates -/

/-- CMP (R127). -/
def execCmp (d : PredReg) (a b : Reg) (c : BitVec 4) (s : State) : Host.Outcome State Fault Refusal :=
  compare2 s d (s.dev.blk.rs a) (s.dev.blk.rs b) c.toNat

/-- CMPI: the immediate is compared as sext(v, 13) extended to 64 bits (R127). -/
def execCmpi (d : PredReg) (a : Reg) (c : BitVec 3) (i : BitVec 13) (s : State) :
    Host.Outcome State Fault Refusal :=
  compare2 s d (s.dev.blk.rs a) (SReg.plain (sext13 i)) c.toNat

/-- PAND (R128). -/
def execPand (d a b : PredReg) (s : State) : Host.Outcome State Fault Refusal :=
  pred2 s d a b (fun x y => x && y)

/-- POR (R128). -/
def execPor (d a b : PredReg) (s : State) : Host.Outcome State Fault Refusal :=
  pred2 s d a b (fun x y => x || y)

/-- PXOR (R128). -/
def execPxor (d a b : PredReg) (s : State) : Host.Outcome State Fault Refusal :=
  pred2 s d a b (fun x y => x != y)

/-- PNOT (R128). -/
def execPnot (d a : PredReg) (s : State) : Host.Outcome State Fault Refusal :=
  let q := s.dev.blk.rp_ a
  done s (s.dev.blk.wp d (PReg.result q.poison (!q.val)))

/-- PMOV: the predicate with its poison fields (R128). -/
def execPmov (d a : PredReg) (s : State) : Host.Outcome State Fault Refusal :=
  let q := s.dev.blk.rp_ a
  done s (s.dev.blk.wp d (PReg.result q.poison q.val))

end Sys2Proof.Machine
end

