-- ==== Sys2Proof/Machine/Dispatch.lean ====
section
/-! DEFINITION. One arm for each constructor of Instr: the call of its meaning. -/
namespace Sys2Proof.Machine

/-- What one instruction or event does. -/
def exec (i : Instr) (s : State) : Host.Outcome State Fault Refusal :=
  match i with
  | .add d a b => Sys2Proof.Machine.execAdd d a b s
  | .sub d a b => Sys2Proof.Machine.execSub d a b s
  | .mul d a b => Sys2Proof.Machine.execMul d a b s
  | .mulh d a b => Sys2Proof.Machine.execMulh d a b s
  | .mulhu d a b => Sys2Proof.Machine.execMulhu d a b s
  | .div d a b => Sys2Proof.Machine.execDiv d a b s
  | .divu d a b => Sys2Proof.Machine.execDivu d a b s
  | .rem d a b => Sys2Proof.Machine.execRem d a b s
  | .remu d a b => Sys2Proof.Machine.execRemu d a b s
  | .and d a b => Sys2Proof.Machine.execAnd d a b s
  | .or d a b => Sys2Proof.Machine.execOr d a b s
  | .xor d a b => Sys2Proof.Machine.execXor d a b s
  | .andn d a b => Sys2Proof.Machine.execAndn d a b s
  | .shl d a b => Sys2Proof.Machine.execShl d a b s
  | .shr d a b => Sys2Proof.Machine.execShr d a b s
  | .sra d a b => Sys2Proof.Machine.execSra d a b s
  | .rot d a b => Sys2Proof.Machine.execRot d a b s
  | .min d a b => Sys2Proof.Machine.execMin d a b s
  | .max d a b => Sys2Proof.Machine.execMax d a b s
  | .minu d a b => Sys2Proof.Machine.execMinu d a b s
  | .maxu d a b => Sys2Proof.Machine.execMaxu d a b s
  | .clz d a => Sys2Proof.Machine.execClz d a s
  | .ctz d a => Sys2Proof.Machine.execCtz d a s
  | .popc d a => Sys2Proof.Machine.execPopc d a s
  | .bfx d a b l => Sys2Proof.Machine.execBfx d a b l s
  | .bfi d a b l => Sys2Proof.Machine.execBfi d a b l s
  | .sel d a b p => Sys2Proof.Machine.execSel d a b p s
  | .addi d a im => Sys2Proof.Machine.execAddi d a im s
  | .andi d a im => Sys2Proof.Machine.execAndi d a im s
  | .ori d a im => Sys2Proof.Machine.execOri d a im s
  | .xori d a im => Sys2Proof.Machine.execXori d a im s
  | .shli d a c => Sys2Proof.Machine.execShli d a c s
  | .shri d a c => Sys2Proof.Machine.execShri d a c s
  | .srai d a c => Sys2Proof.Machine.execSrai d a c s
  | .roti d a c => Sys2Proof.Machine.execRoti d a c s
  | .lui d im => Sys2Proof.Machine.execLui d im s
  | .auipc d im => Sys2Proof.Machine.execAuipc d im s
  | .addx d a b sf => Sys2Proof.Machine.execAddx d a b sf s
  | .cmp d a b c => Sys2Proof.Machine.execCmp d a b c s
  | .cmpi d a c im => Sys2Proof.Machine.execCmpi d a c im s
  | .pand d a b => Sys2Proof.Machine.execPand d a b s
  | .por d a b => Sys2Proof.Machine.execPor d a b s
  | .pxor d a b => Sys2Proof.Machine.execPxor d a b s
  | .pnot d a => Sys2Proof.Machine.execPnot d a s
  | .pmov d a => Sys2Proof.Machine.execPmov d a s
  | .ldb d a b h o => Sys2Proof.Machine.execLdb d a b h o s
  | .ldh d a b h o => Sys2Proof.Machine.execLdh d a b h o s
  | .ldw d a b h o => Sys2Proof.Machine.execLdw d a b h o s
  | .ldd d a b h o => Sys2Proof.Machine.execLdd d a b h o s
  | .ldbz d a b h o => Sys2Proof.Machine.execLdbz d a b h o s
  | .ldhz d a b h o => Sys2Proof.Machine.execLdhz d a b h o s
  | .ldwz d a b h o => Sys2Proof.Machine.execLdwz d a b h o s
  | .stb d a b h o => Sys2Proof.Machine.execStb d a b h o s
  | .sth d a b h o => Sys2Proof.Machine.execSth d a b h o s
  | .stw d a b h o => Sys2Proof.Machine.execStw d a b h o s
  | .std d a b h o => Sys2Proof.Machine.execStd d a b h o s
  | .amo d a b p w o => Sys2Proof.Machine.execAmo d a b p w o s
  | .b n p o => Sys2Proof.Machine.execB n p o s
  | .bz a o => Sys2Proof.Machine.execBz a o s
  | .bnz a o => Sys2Proof.Machine.execBnz a o s
  | .j o => Sys2Proof.Machine.execJ o s
  | .jal d o => Sys2Proof.Machine.execJal d o s
  | .jr d a => Sys2Proof.Machine.execJr d a s
  | .loop d o => Sys2Proof.Machine.execLoop d o s
  | .csrr d c => Sys2Proof.Machine.execCsrr d c s
  | .csrw d a c => Sys2Proof.Machine.execCsrw d a c s
  | .csrs d a c => Sys2Proof.Machine.execCsrs d a c s
  | .csrc d a c => Sys2Proof.Machine.execCsrc d a c s
  | .trap v => Sys2Proof.Machine.execTrap v s
  | .wait a => Sys2Proof.Machine.execWait a s
  | .poison d a => Sys2Proof.Machine.execPoison d a s
  | .marble a => Sys2Proof.Machine.execMarble a s
  | .shape d a b h => Sys2Proof.Machine.execShape d a b h s
  | .shapeq d a b => Sys2Proof.Machine.execShapeq d a b s
  | .tbind d h => Sys2Proof.Machine.execTbind d h s
  | .tfree d => Sys2Proof.Machine.execTfree d s
  | .tadd d a b m r => Sys2Proof.Machine.execTadd d a b m r s
  | .tsub d a b m r => Sys2Proof.Machine.execTsub d a b m r s
  | .tmul d a b m r => Sys2Proof.Machine.execTmul d a b m r s
  | .tfma d a b m r => Sys2Proof.Machine.execTfma d a b m r s
  | .tfms d a b m r => Sys2Proof.Machine.execTfms d a b m r s
  | .tmin d a b m r => Sys2Proof.Machine.execTmin d a b m r s
  | .tmax d a b m r => Sys2Proof.Machine.execTmax d a b m r s
  | .tand d a b m r => Sys2Proof.Machine.execTand d a b m r s
  | .tor d a b m r => Sys2Proof.Machine.execTor d a b m r s
  | .txor d a b m r => Sys2Proof.Machine.execTxor d a b m r s
  | .tshl d a b m r => Sys2Proof.Machine.execTshl d a b m r s
  | .tshr d a b m r => Sys2Proof.Machine.execTshr d a b m r s
  | .tcmp d a b m c => Sys2Proof.Machine.execTcmp d a b m c s
  | .tsel d a b sf r => Sys2Proof.Machine.execTsel d a b sf r s
  | .tabs d a m r => Sys2Proof.Machine.execTabs d a m r s
  | .tneg d a m r => Sys2Proof.Machine.execTneg d a m r s
  | .trcp d a m r => Sys2Proof.Machine.execTrcp d a m r s
  | .trsq d a m r => Sys2Proof.Machine.execTrsq d a m r s
  | .texp d a m r => Sys2Proof.Machine.execTexp d a m r s
  | .tlog d a m r => Sys2Proof.Machine.execTlog d a m r s
  | .ttanh d a m r => Sys2Proof.Machine.execTtanh d a m r s
  | .tcvt d a b m sf r => Sys2Proof.Machine.execTcvt d a b m sf r s
  | .tqnt d a b m sf r => Sys2Proof.Machine.execTqnt d a b m sf r s
  | .tdq d a b m sf r => Sys2Proof.Machine.execTdq d a b m sf r s
  | .tmov d a m => Sys2Proof.Machine.execTmov d a m s
  | .tbcast d a m => Sys2Proof.Machine.execTbcast d a m s
  | .tiota d a b m => Sys2Proof.Machine.execTiota d a b m s
  | .ttrans d a m => Sys2Proof.Machine.execTtrans d a m s
  | .tslide d a b m => Sys2Proof.Machine.execTslide d a b m s
  | .tperm d a b m => Sys2Proof.Machine.execTperm d a b m s
  | .tredr d a m x => Sys2Proof.Machine.execTredr d a m x s
  | .tredc d a m x => Sys2Proof.Machine.execTredc d a m x s
  | .tscan d a m x => Sys2Proof.Machine.execTscan d a m x s
  | .tnz d a m => Sys2Proof.Machine.execTnz d a m s
  | .tcomp d a m => Sys2Proof.Machine.execTcomp d a m s
  | .texpd d a m => Sys2Proof.Machine.execTexpd d a m s
  | .tgets d a b => Sys2Proof.Machine.execTgets d a b s
  | .tclass d a m c => Sys2Proof.Machine.execTclass d a m c s
  | .tpmask d a m => Sys2Proof.Machine.execTpmask d a m s
  | .mand d a b => Sys2Proof.Machine.execMand d a b s
  | .mor d a b => Sys2Proof.Machine.execMor d a b s
  | .mxor d a b => Sys2Proof.Machine.execMxor d a b s
  | .mnot d a => Sys2Proof.Machine.execMnot d a s
  | .mpopc d a => Sys2Proof.Machine.execMpopc d a s
  | .mfirst d a => Sys2Proof.Machine.execMfirst d a s
  | .msets d a => Sys2Proof.Machine.execMsets d a s
  | .mpsum d a => Sys2Proof.Machine.execMpsum d a s
  | .map d a b m l => Sys2Proof.Machine.execMap d a b m l s
  | .map3 d a b m l => Sys2Proof.Machine.execMap3 d a b m l s
  | .reduce d a m l => Sys2Proof.Machine.execReduce d a m l s
  | .scan d a m l => Sys2Proof.Machine.execScan d a m l s
  | .tld d a m h o => Sys2Proof.Machine.execTld d a m h o s
  | .tlds d a b m h o => Sys2Proof.Machine.execTlds d a b m h o s
  | .tldb d a m h o => Sys2Proof.Machine.execTldb d a m h o s
  | .tldg d a b m h o => Sys2Proof.Machine.execTldg d a b m h o s
  | .tldw d a b m h o => Sys2Proof.Machine.execTldw d a b m h o s
  | .tldc d a b m h o => Sys2Proof.Machine.execTldc d a b m h o s
  | .tldsh d a m => Sys2Proof.Machine.execTldsh d a m s
  | .tldm d a => Sys2Proof.Machine.execTldm d a s
  | .tst d a m h o => Sys2Proof.Machine.execTst d a m h o s
  | .tsts d a b m h o => Sys2Proof.Machine.execTsts d a b m h o s
  | .tsct d a b m h o => Sys2Proof.Machine.execTsct d a b m h o s
  | .tscta d a b m h o => Sys2Proof.Machine.execTscta d a b m h o s
  | .tatom d a b m p o => Sys2Proof.Machine.execTatom d a b m p o s
  | .tstsh d a m => Sys2Proof.Machine.execTstsh d a m s
  | .mma d a b m t x => Sys2Proof.Machine.execMma d a b m t x s
  | .mmas d a b m t x => Sys2Proof.Machine.execMmas d a b m t x s
  | .mmav r b p sf x t => Sys2Proof.Machine.execMmav r b p sf x t s
  | .azero d => Sys2Proof.Machine.execAzero d s
  | .amov d a m r sf => Sys2Proof.Machine.execAmov d a m r sf s
  | .tamov d a m => Sys2Proof.Machine.execTamov d a m s
  | .ald d a b => Sys2Proof.Machine.execAld d a b s
  | .ast d a b => Sys2Proof.Machine.execAst d a b s
  | .copy a b c sf => Sys2Proof.Machine.execCopy a b c sf s
  | .copyz a c sf => Sys2Proof.Machine.execCopyz a c sf s
  | .copyg a b c sf => Sys2Proof.Machine.execCopyg a b c sf s
  | .copyx a b c sf => Sys2Proof.Machine.execCopyx a b c sf s
  | .cpin a b => Sys2Proof.Machine.execCpin a b s
  | .cunpin a b => Sys2Proof.Machine.execCunpin a b s
  | .cevict a b => Sys2Proof.Machine.execCevict a b s
  | .cpref a b => Sys2Proof.Machine.execCpref a b s
  | .fence o => Sys2Proof.Machine.execFence o s
  | .launch d a => Sys2Proof.Machine.execLaunch d a s
  | .send d a b => Sys2Proof.Machine.execSend d a b s
  | .recv d => Sys2Proof.Machine.execRecv d s
  | .recvt d b p => Sys2Proof.Machine.execRecvt d b p s
  | .evwait d a b o => Sys2Proof.Machine.execEvwait d a b o s
  | .qfill a b c sf => Sys2Proof.Machine.execQfill a b c sf s
  | .qpop d a => Sys2Proof.Machine.execQpop d a s
  | .gnode a b => Sys2Proof.Machine.execGnode a b s
  | .glink a b => Sys2Proof.Machine.execGlink a b s
  | .gsubmit a b sf => Sys2Proof.Machine.execGsubmit a b sf s
  | .tlbinvPage a b => Sys2Proof.Machine.execTlbinvPage a b s
  | .tlbinvAsid b => Sys2Proof.Machine.execTlbinvAsid b s
  | .cntr d n => Sys2Proof.Machine.execCntr d n s
  | .cntw a n => Sys2Proof.Machine.execCntw a n s
  | .blockPromotion k => Sys2Proof.Machine.execBlockPromotion k s
  | .blockWake k => Sys2Proof.Machine.execBlockWake k s
  | .waitExpiry k => Sys2Proof.Machine.execWaitExpiry k s
  | .recvtTimeout k => Sys2Proof.Machine.execRecvtTimeout k s
  | .noticeEntry k => Sys2Proof.Machine.execNoticeEntry k s
  | .noticeWindowExpiry k => Sys2Proof.Machine.execNoticeWindowExpiry k s
  | .hardPreemption k => Sys2Proof.Machine.execHardPreemption k s
  | .saveComplete k => Sys2Proof.Machine.execSaveComplete k s
  | .launchCompletion lid => Sys2Proof.Machine.execLaunchCompletion lid s
  | .producerCountWrite q => Sys2Proof.Machine.execProducerCountWrite q s
  | .queueDescriptorWrite e => Sys2Proof.Machine.execQueueDescriptorWrite e s
  | .launchRecord q => Sys2Proof.Machine.execLaunchRecord q s
  | .preemptRecord q => Sys2Proof.Machine.execPreemptRecord q s
  | .restoreRecord q => Sys2Proof.Machine.execRestoreRecord q s
  | .abortRecord q => Sys2Proof.Machine.execAbortRecord q s
  | .faultAnswer f => Sys2Proof.Machine.execFaultAnswer f s
  | .loadReissue k => Sys2Proof.Machine.execLoadReissue k s
  | .loadArrival k t g => Sys2Proof.Machine.execLoadArrival k t g s
  | .writePerformed k slice => Sys2Proof.Machine.execWritePerformed k slice s
  | .transferArrival k => Sys2Proof.Machine.execTransferArrival k s
  | .mmavStopPoint k => Sys2Proof.Machine.execMmavStopPoint k s
  | .engineCompletion op => Sys2Proof.Machine.execEngineCompletion op s
  | .engineAbandon op => Sys2Proof.Machine.execEngineAbandon op s
  | .copyxSwitch op => Sys2Proof.Machine.execCopyxSwitch op s
  | .fillEntry k q => Sys2Proof.Machine.execFillEntry k q s
  | .nodeStart g node => Sys2Proof.Machine.execNodeStart g node s
  | .nodeDone g node => Sys2Proof.Machine.execNodeDone g node s
  | .nodeAbandon g node => Sys2Proof.Machine.execNodeAbandon g node s
  | .graphCompletion g => Sys2Proof.Machine.execGraphCompletion g s
  | .energyCharge of_ charge => Sys2Proof.Machine.execEnergyCharge of_ charge s
  | .thermalCapChange core celsius => Sys2Proof.Machine.execThermalCapChange core celsius s
  | .softErrorReplay k lasting laneGroup fails => Sys2Proof.Machine.execSoftErrorReplay k lasting laneGroup fails s
  | .marbleMismatch k again laneGroup fails => Sys2Proof.Machine.execMarbleMismatch k again laneGroup fails s
  | .drowsyEntry core part row => Sys2Proof.Machine.execDrowsyEntry core part row s
  | .scrub level unit row => Sys2Proof.Machine.execScrub level unit row s
  | .hotPageWindow die => Sys2Proof.Machine.execHotPageWindow die s
  | .heldLineDrain slice => Sys2Proof.Machine.execHeldLineDrain slice s
  | .pseudoChannelFailure stack ch => Sys2Proof.Machine.execPseudoChannelFailure stack ch s
  | .spareCopyComplete stack ch => Sys2Proof.Machine.execSpareCopyComplete stack ch s
  | .selfRefreshEntry stack ch request => Sys2Proof.Machine.execSelfRefreshEntry stack ch request s
  | .routerPowerDown router wake => Sys2Proof.Machine.execRouterPowerDown router wake s
  | .rdS p line tag => Sys2Proof.Machine.execRdS p line tag s
  | .rdX p line tag => Sys2Proof.Machine.execRdX p line tag s
  | .upg p line tag => Sys2Proof.Machine.execUpg p line tag s
  | .wb p line tag data poisoned => Sys2Proof.Machine.execWb p line tag data poisoned s
  | .ucRd p line tag => Sys2Proof.Machine.execUcRd p line tag s
  | .ucWr p line tag mask data poisoned => Sys2Proof.Machine.execUcWr p line tag mask data poisoned s
  | .atom p line tag op wide offset operand expected poisoned => Sys2Proof.Machine.execAtom p line tag op wide offset operand expected poisoned s
  | .inv p line tag => Sys2Proof.Machine.execInv p line tag s
  | .recall p line tag => Sys2Proof.Machine.execRecall p line tag s
  | .fwdS p line tag dest => Sys2Proof.Machine.execFwdS p line tag dest s
  | .reHome p line tag newLine => Sys2Proof.Machine.execReHome p line tag newLine s
  | .data p tag bytes poisoned => Sys2Proof.Machine.execData p tag bytes poisoned s
  | .ack p tag => Sys2Proof.Machine.execAck p tag s
  | .invAck p tag => Sys2Proof.Machine.execInvAck p tag s
  | .atomRsp p tag old poisoned => Sys2Proof.Machine.execAtomRsp p tag old poisoned s
  | .replayRequest port seq => Sys2Proof.Machine.execReplayRequest port seq s
  | .training port version lanes partner => Sys2Proof.Machine.execTraining port version lanes partner s
  | .laneFailure port => Sys2Proof.Machine.execLaneFailure port s
  | .messageLost tag => Sys2Proof.Machine.execMessageLost tag s
  | .cxlCompletionTimeout req => Sys2Proof.Machine.execCxlCompletionTimeout req s
  | .hostCxlMemAccess write pa bytes => Sys2Proof.Machine.execHostCxlMemAccess write pa bytes s
  | .hostSnoop line bytes => Sys2Proof.Machine.execHostSnoop line bytes s
  | .birsp line => Sys2Proof.Machine.execBirsp line s
  | .errlogWrite v => Sys2Proof.Machine.execErrlogWrite v s
  | .boot imgs => Sys2Proof.Machine.execBoot imgs s
  | .flitCrcFailure port => Sys2Proof.Machine.execFlitCrcFailure port s
  | .faultQueueConsumerCountWrite f => Sys2Proof.Machine.execFaultQueueConsumerCountWrite f s
  | .candidateWaitExpiry c => Sys2Proof.Machine.execCandidateWaitExpiry c s
  | .yieldExpiry k => Sys2Proof.Machine.execYieldExpiry k s
  | .refresh stack ch errors => Sys2Proof.Machine.execRefresh stack ch errors s
  | .managementRequest r => Sys2Proof.Machine.execManagementRequest r s
  | .debuggerRead core part row => Sys2Proof.Machine.execDebuggerRead core part row s
  | .attestationRequest nonce => Sys2Proof.Machine.execAttestationRequest nonce s
  | .firmwareUpdate img => Sys2Proof.Machine.execFirmwareUpdate img s
  | .rth => Sys2Proof.Machine.execRth s
  | .exit => Sys2Proof.Machine.execExit s
  | .yield => Sys2Proof.Machine.execYield s
  | .noticedone => Sys2Proof.Machine.execNoticedone s
  | .sjoin => Sys2Proof.Machine.execSjoin s
  | .tlbinvAll => Sys2Proof.Machine.execTlbinvAll s
  | .placeGang => Sys2Proof.Machine.execPlaceGang s
  | .thermalTrip => Sys2Proof.Machine.execThermalTrip s
  | .deviceReset => Sys2Proof.Machine.execDeviceReset s

end Sys2Proof.Machine
end

