-- ==== Sys2Proof/Machine/Due.lean ====
section
/-! DEFINITION. What the device does next: the events that its own agents owe, and the block that issues (R33 to
R35, R38, R45 to R48, R323, R330, R345).

The time at which an agent acts is not fixed by the spec.  A free choice says whether an owed event or a block moves
first; among owed events the first in the list below that changes anything moves. -/
namespace Sys2Proof.Machine

/-! ## Owed events -/

/-- The events that a block may be owed (R37 to R39, R208, R220 to R222, R259, R267, R337, R341), a pre-emption before the
end of a wait (R39). -/
def Block.owed (b : Block) (clock : Nat) : List Instr :=
  let k := b.id.key
  let live := b.run == .ready || b.run == .waiting
  (if b.preempt.isSome && live then [.noticeEntry k, .noticeWindowExpiry k, .hardPreemption k] else []) ++
  (match b.wait with
    | .none => []
    | .clocks _ => [.waitExpiry k]
    | .tileLimit _ _ _ => [.blockWake k, .recvtTimeout k]
    | _ => [.blockWake k]) ++
  (if b.yieldUntil != 0 then [.yieldExpiry k] else []) ++
  (if b.run == .saving then [.saveComplete k] else []) ++
  (if b.xfer.isSome then [.transferArrival k] else []) ++
  ((b.pend.map (·.slice)).eraseDups.map fun s => .writePerformed k s) ++
  (if b.stop.isSome then [.mmavStopPoint k] else []) ++
  ((withIndex 0 b.queues.toList).filterMap fun x =>
    if x.2.st == .filling || x.2.st == .faulted then Option.some (.fillEntry k (BitVec.ofNat 2 x.1)) else Option.none) ++
  (if b.run == .ready && !b.promoted && b.lastIssue + 64 ≤ clock then [.blockPromotion k] else [])

/-- The events that an engine operation may be owed (R46, R282, R286, R361). -/
def Op.owed (o : Op) : List Instr :=
  match o.node with
  | none => [.engineCompletion o.num, .copyxSwitch o.num, .engineAbandon o.num]
  | some _ => [.copyxSwitch o.num]

/-- The events that a graph may be owed (R364). -/
def Graph.owed (g : Graph) : List Instr :=
  ((withIndex 0 g.nodes).flatMap fun x =>
    if x.2.ended then []
    else if x.2.started then [.nodeDone g.num x.1, .nodeAbandon g.num x.1]
    else [.nodeStart g.num x.1, .nodeAbandon g.num x.1]) ++ [.graphCompletion g.num]

/-- A launch queue's descriptor is enabled (R322). -/
def Work.queueOn (w : Work) (q : Nat) : Bool := (w.byte (w.dev.fw.queueTable + 64 * q + 9)).toNat % 2 == 1

/-- The host launch queues in the order of their turns, that after the one served last first (R323). -/
def Dev.turns (d : Dev) : List Nat := (List.range 16).map fun i => (d.lu.turn + 1 + i) % 16

/-- The events that a host launch queue may be owed (R323, R326, R334): counts are re-read, then one record is read at
each turn. -/
def Work.queueOwed (w : Work) : List Instr :=
  if w.dev.svc.stage = .running then
    ((List.range 16).filter w.queueOn).map .producerCountWrite ++
    ((w.dev.turns.filter w.queueOn).flatMap fun q =>
      [.launchRecord q, .preemptRecord q, .restoreRecord q, .abortRecord q]) ++
    (((List.range 16).filter fun q => w.badDesc q && w.descWritten q && !(w.dev.launchQueue q).reported).map .queueDescriptorWrite)
  else []

/-- The candidates that have waited long and are not reserving yet (R330). -/
def Dev.waitOwed (d : Dev) : List Instr :=
  (withIndex 0 d.candidates).filterMap fun x =>
    match d.launch x.2.lid with
    | none => none
    | some l =>
      let since := match x.2.saved.bind l.savedGang with
        | some s => s.since
        | none => l.since
      if since + longWait ≤ d.clock then some (.candidateWaitExpiry x.1) else none

/-- The windows of the hot-page trackers that are over (R237). -/
def Dev.windowsOwed (d : Dev) : List Instr := ([0, 1].filter d.windowOver).map .hotPageWindow

/-- The messages that are to be declared lost (R388). -/
def Dev.lostOwed (d : Dev) : List Instr :=
  (d.link.unsent.filter fun m => m.overdue d.clock).map fun m => .messageLost m.tag

/-- Every event that the device may owe. -/
def State.owed (s : State) : List Instr :=
  let d := s.dev
  let w := Work.start s
  (d.fq.queues.map fun q => .faultAnswer q.fn) ++
  (if d.fq.held = [] then [] else [.faultQueueConsumerCountWrite 0]) ++
  (d.blocks.flatMap fun b => b.owed d.clock) ++
  (d.eng.ops.flatMap Op.owed) ++
  (d.eng.fills.map fun x => .fillEntry x.1 (BitVec.ofNat 2 x.2.1)) ++
  (d.eng.graphs.flatMap Graph.owed) ++
  (d.lu.launches.map fun l => .launchCompletion l.lid) ++
  w.queueOwed ++
  d.waitOwed ++ (if d.candidates = [] then [] else [.placeGang]) ++
  (d.unc.starved.map fun l => .heldLineDrain (w.homeSlice (l * 128))) ++ d.windowsOwed ++
  d.lostOwed

/-- The state without the count of free values. -/
def State.unfresh (s : State) : State := { s with dev := { s.dev with fresh := 0 } }

/-- An event changes something. -/
def State.acts (s : State) (i : Instr) : Bool :=
  match exec i s with
  | .next t => t.unfresh != s.unfresh
  | .fault _ | .refused _ => false

/-- The owed event that moves next. -/
def State.due (s : State) : Option Instr := s.owed.find? s.acts

/-! ## The block that issues -/

/-- A block counts among the blocks of another's partition (R33, R35). -/
def Block.besides (b c : Block) : Bool :=
  c.resident && c.place.core == b.place.core && (c.place.inPart b.place.part || b.place.wide)

/-- The block has an instruction to issue: it is ready, and pre-emption does not stop it (R38, R39). -/
def Dev.canIssue (d : Dev) (b : Block) : Bool := b.run == .ready && !d.halted b

/-- Block `c` goes before block `b` (R33): promoted blocks first, then by age. -/
def Block.before (c b : Block) : Bool :=
  if c.promoted = b.promoted then c.lastIssue < b.lastIssue else c.promoted

/-- The block may issue (R33, R208): no ready block of its partition goes before it, and it has not yielded to one. -/
def Dev.mayIssue (d : Dev) (b : Block) : Bool :=
  let near := d.blocks.filter fun c => b.besides c && d.canIssue c && c.id.key != b.id.key
  let awake (c : Block) : Bool := c.yieldUntil ≤ d.clock
  d.canIssue b && (near = [] || (awake b && near.all fun c => !(awake c && c.before b)))

/-- A block that has retired and owes nothing: neither a write nor a transfer that has begun (R41, R222). -/
def Block.finished (b : Block) : Bool := b.run == .retired && b.pend == [] && b.xfer.isNone

/-- The block that issues steps aside for block `k`; one that has retired and owes nothing is gone (R41). -/
def Dev.switchTo (d : Dev) (k : BlockKey) : Dev :=
  if d.blk.id.key = k then d
  else match d.others.find? (·.id.key == k) with
    | none => d
    | some b =>
      let rest := d.others.filter fun x => x.id.key != k && !x.finished
      let old := if d.blk.finished then [] else [d.blk]
      { d with blk := b, others := rest ++ old }

/-- The blocks that may issue, the one that issued last at the end. -/
def Dev.issuers (d : Dev) : List BlockKey :=
  ((d.others ++ [d.blk]).filter d.mayIssue).map (·.id.key)

/-- The block that issues next: the partitions' sequencers act in a free order, and so do blocks of one age (R33). -/
def Dev.nextIssuer (d : Dev) : Option BlockKey :=
  let ks := d.issuers
  ks[Config.freeChoice d.fresh % ks.length]?

/-- The partitions whose sequencer a block uses (R35, R143). -/
def Place.parts (p : Place) : List Nat := if p.wide then [0, 1, 2, 3] else [p.part]

/-- Two instructions of a partition at most issue in one clock (R33): with two there the next one does so a clock later. -/
def Dev.spaced (d : Dev) : Dev :=
  let p := d.blk.place
  if d.blk.flight.isNone && p.parts.any fun q => 2 ≤ d.issues.count (p.core, q) then d.elapse 1 else d

/-- The issue queue that takes an instruction (R33), by its major opcode; the sequencer executes itself what the table of R33
names in no queue. -/
def queueOf (i : Instr) : IssueQueue :=
  match i with
  | .send .. | .qfill .. => .copy
  | _ =>
    match encode i with
    | none => .sequencer
    | some w =>
      let m := w.toNat / 2 ^ 26
      if 0x19 ≤ m && m ≤ 0x28 then .lane
      else if 0x29 ≤ m && m ≤ 0x2C then .matrix
      else if 0x2D ≤ m && m ≤ 0x2F then .copy
      else .sequencer

/-- Entries of an issue queue of a partition, and of its history buffer (R143, R321). -/
def IssueQueue.size (q : IssueQueue) : Option Nat :=
  match q with
  | .sequencer => none
  | .lane => some 48
  | .matrix | .copy => some 16

def historySize : Nat := 128

/-- The blocks with an instruction in flight in one of the partitions that a block uses: they are the entries of its history
buffer, and of its issue queues (R143, R321). -/
def Dev.inFlight (d : Dev) (p : Place) : List Block :=
  d.blocks.filter fun b => b.flight.isSome && b.place.core == p.core && b.place.parts.any p.parts.contains

/-- History buffer and issue queue have room for an instruction of the block that issues (R143, R321). -/
def Dev.issueRoom (d : Dev) (q : IssueQueue) : Bool :=
  let l := d.inFlight d.blk.place
  l.length < historySize && q.size.all fun n => l.countP (·.flight == some q) < n

/-- Counts a clock in which an instruction waits for a history entry (R376). -/
def Dev.historyFull (d : Dev) : Dev :=
  if historySize ≤ (d.inFlight d.blk.place).length then d.countFor 11 1 else d

/-- Extra clocks of the banks and of the gather TLB are counted as an instruction issues (R151, R193, R376): how many there
were is free, log entry 2. -/
def Dev.conflicts (d : Dev) (i : Instr) (q : IssueQueue) : Dev :=
  let n := d.fresh
  match q, i with
  | .lane, .tldg .. | .lane, .tsct .. | .lane, .tscta .. | .lane, .tatom .. =>
    { (d.countFor 3 (Config.freeChoice n)).countFor 4 (Config.freeChoice (n + 1)) with fresh := n + 2 }
  | .lane, _ => { d.countFor 3 (Config.freeChoice n) with fresh := n + 1 }
  | _, _ => d

/-- The block that issues takes a history entry and an entry of the issue queue (R33, R143); what its last instruction counted
is forgotten. -/
def Dev.takeFlight (d : Dev) (i : Instr) : Dev :=
  let b := d.blk
  let q := queueOf i
  ({ d with
    blk := { b with flight := some q },
    issues := b.place.parts.map (fun p => (b.place.core, p)) ++ d.issues,
    counted := d.counted.filter fun x => x.1 != b.id.key }).conflicts i q

/-! ## Housekeeping -/

/-- What follows of itself from the last step: writes of the device's own units that waited (R380), firmware's update of the
capability list (R365), completion words of fills that retirement stopped (R343), control records
whose gangs have got there (R334), and entries of gangs of which no member was saved. -/
def State.tidy (s : State) : State :=
  if s.dev.lu.controls = [] && s.dev.eng.owed = [] && s.dev.ownQueue = [] && s.dev.fw.changed = none &&
      s.dev.fw.generation % 2 = 0 && s.dev.lu.launches.all (fun l => l.saved == []) then s
  else
    let w := Work.start s
    let w := (w.ownDrain w.dev.ownQueue).updateList.payOwed.settleControls
    ({ w with dev := w.dev.tidySaved }).settle s

/-- The rows that a lane instruction of the block that issues may have read are awake (R217): which rows those are is
free, log entry 17. -/
def Dev.wakeRows (d : Dev) : Dev :=
  if d.unc.drowsy = [] then d
  else
    let n := d.fresh
    let mine (x : Nat × Nat × Nat) : Bool := x.1 == d.blk.place.core && (d.blk.place.wide || x.2.1 == d.blk.place.part)
    let drowsy := (d.unc.drowsy.zipIdx.filter fun x => !(mine x.1 && Config.freeChoice (n + x.2) % 2 == 0)).map (·.1)
    { d with fresh := n + d.unc.drowsy.length,
             unc := (d.unc.drowsy.filter fun x => !drowsy.contains x).foldl (fun u x => u.usedRow x d.clock)
               { d.unc with drowsy := drowsy } }

end Sys2Proof.Machine
end

