-- ==== Sys2Proof/Machine/Step.lean ====
section
/-! DEFINITION. One step of the machine, and placing a word where the next step fetches. -/
namespace Sys2Proof.Machine

/-- The block that issues has taken a trap or been killed: its instruction did not commit (R210). -/
def State.unwound (s t : State) : Bool :=
  (t.dev.blk.ps.intrap && !s.dev.blk.ps.intrap) || (t.dev.blk.run == .retired && t.dev.lu.launches.any fun l =>
    l.lid == s.dev.blk.id.key.lid && l.killed)

/-- A trap to which only the poison of an error led leaves the error and its entry as if unread (R211). -/
def State.trapAlone (s t : State) : State :=
  if t.dev.blk.run == .retired then t
  else { s with dev := { s.dev.withCounts t.dev with
    blk := { t.dev.blk with t := s.dev.blk.t }, fq := t.dev.fq, link := t.dev.link } }

/-- Runs an instruction that was fetched, once the errors of the cells that it reads are met; one that is unwound without
them meets none, so that it leaves no entry (R211, R215). -/
def State.runFetched (s : State) (i : Instr) : Host.Outcome State Fault Refusal :=
  match s.meetFile with
  | some t => .next t
  | none =>
    if s.dev.unc.upsets = [] then exec i s
    else match exec i s with
      | .next t =>
        if s.unwound t then .next t
        else match exec i (s.meet i) with
          | .next u => .next (if s.unwound u then s.trapAlone u else u)
          | r => r
      | r => r

/-- An instruction issues, unless it is in flight already; one that finds no history entry or a full queue waits, and its
block stays READY (R143, R321, R376). -/
def State.launchInstr (s : State) (i : Instr) : Host.Outcome State Fault Refusal :=
  let d := s.dev
  if d.blk.flight.isSome then s.runFetched i
  else if d.issueRoom (queueOf i) then ({ s with dev := d.takeFlight i } : State).runFetched i
  else .next { s with dev := d.historyFull.held }

/-- The block that issues fetches and runs one instruction. -/
def State.issue (s : State) : Host.Outcome State Fault Refusal :=
  match ({ s with dev := s.dev.wakeRows } : State).fetch with
  | .run i t => t.launchInstr i
  | .idle t => .next t

/-- Block `k` issues, where it is ready in the clock in which it may (R33, R422). -/
def State.issueAs (s : State) (k : BlockKey) : Host.Outcome State Fault Refusal :=
  let t := s.dev.switchTo k
  if t.blk.id.key = k then
    let t := t.spaced
    let u : State := { s with dev := t }
    if t.canIssue t.blk then u.issue else .next u
  else .next { s with dev := t }

/-- Nothing can move: time passes. -/
def State.rest (s : State) : Host.Outcome State Fault Refusal :=
  .next { s with dev := s.dev.elapse 1 }

/-- What moves by itself: an owed event or a block, which of them first being a free choice. -/
def State.move (s : State) : Host.Outcome State Fault Refusal :=
  if Config.freeChoice s.dev.fresh % 2 = 0 then
    match s.due, s.dev.nextIssuer with
    | some i, _ => exec i s
    | none, some k => s.issueAs k
    | none, none => s.rest
  else
    match s.dev.nextIssuer, s.due with
    | some k, _ => s.issueAs k
    | none, some i => exec i s
    | none, none => s.rest

/-- One step: time passes, what follows of itself is done, then what the agenda names moves, else what moves by
itself. -/
def step (s : State) : Host.Outcome State Fault Refusal :=
  let t := s.tick.tidy
  match t.dev.agenda with
  | .event i :: r => exec i { t with dev := { t.dev with agenda := r } }
  | .issue k :: r => State.issueAs { t with dev := { t.dev with agenda := r } } k
  | [] => t.move

/-! ## Placing an instruction -/

/-- Where the program's page tables and its page stand in a machine into which a program is loaded from outside; log
entry 12. -/
def loadRoot : Nat := 2 ^ 60
def loadTable : Nat := 2 ^ 60 + 8192
def loadPage : Nat := 2 ^ 61

/-- The address of the program in its page. -/
def loadPc : Nat := 0x10000

/-- A block that stands at that address of a page it may read, write and execute; log entry 12. -/
def loadBlock : Block :=
  { Block.none with
    id := { BlockId.none with root := loadRoot }, run := .ready, pc := BitVec.ofNat 64 loadPc,
    place := { Place.none with share := 32, hdrShare := 32, rows := 256, tsRows := 64, scratch := 4096 } }

/-- The bytes of an instruction: the first word as given, every further word that an instruction may have zero
(R73). -/
def loadedBytes (nbits w : Nat) : List Byte := natLe 132 (w % 2 ^ nbits)

/-- Loads a block, through tables of its own; the block that stood there steps aside. -/
def Work.load (w : Work) : Work :=
  let d := w.dev
  let u := d.unc
  let mine (core asid : Nat) : Bool := core == 0 && asid == 0
  let old := if d.blk.run = .retired then [] else [d.blk]
  let d := { d with
    blk := { loadBlock with lastIssue := d.clock }, others := old ++ d.others,
    unc := { u with tlb := u.tlb.filter fun e => !mine e.core e.asid,
                    walks := u.walks.filter fun e => !mine e.core e.asid } }
  (({ w with dev := d }).putLe loadRoot 16 (1 + 2 ^ 64 * loadTable)).putLe loadTable 16 (loadPage + 0x7F)

/-- Where the block that issues fetches its next instruction, if it is ready and may fetch there. -/
def Work.fetchPlace (w : Work) : Option Nat :=
  let b := w.dev.blk
  if w.dev.canIssue b && b.pc.extractLsb' 0 2 == 0 then
    match (w.translate b.space b.pc.toNat).1 with
    | .leaf l => if l.allows b.ps.pl .fetch then some (l.pa b.pc.toNat) else none
    | .fault | .busy => none
  else none

/-- The next step issues the block in place, from memory. -/
def Dev.issueNext (d : Dev) : Dev :=
  { d with blk := { d.blk with loop := none, batch := none, parked := none, flight := none }, agenda := .issue d.blk.id.key :: d.agenda }

/-- The state with an instruction stored where the next step fetches, so that the next step runs it. -/
def State.withFetchWord (s : State) (nbits w : Nat) : State :=
  let bs := loadedBytes nbits w
  let k := Work.start s
  let k := match k.fetchPlace with
    | some pa => k.putBytes pa bs
    | none => k.load.putBytes (loadPage + loadPc) bs
  ({ k with dev := k.dev.issueNext }).settle s

end Sys2Proof.Machine
end

