-- ==== Sys2Proof/Safety.lean ====
section
/-! DEFINITION. What a safe run is, and the terms in which claims speak: what an instruction leaves of a state.
Every step answers a next state, and every state is well formed. -/
namespace Sys2Proof.Machine

/-- Memory and line metadata keep their canonical form. -/
def State.wf (s : State) : Bool := s.mem.wf && s.tags.wf

/-- The machine goes on from `s`. -/
def State.goesOn (s : State) : Prop := ∃ t, step s = .next t

/-- A run of `n` steps that goes on at every step, in well-formed states. -/
def State.safeFor (s : State) (n : Nat) : Prop :=
  match n with
  | 0 => s.wf = true
  | k + 1 => s.wf = true ∧ ∃ t, step s = .next t ∧ t.safeFor k

/-! ## States after an instruction -/

/-- The block that issues commits and goes on with the next word, nothing else changed. -/
def State.goOn (s : State) (tile : Bool) : State := s.commit tile s.dev.blk (s.dev.blk.pc + 4)

/-- The same with scalar register `d` written. -/
def State.setScalar (s : State) (tile : Bool) (d : Reg) (x : SReg) : State :=
  s.commit tile (s.dev.blk.ws d x) (s.dev.blk.pc + 4)

/-- The same with predicate `d` written. -/
def State.setPred (s : State) (d : PredReg) (x : PReg) : State :=
  s.commit false (s.dev.blk.wp d x) (s.dev.blk.pc + 4)

/-- The same with mask register `d` written, of a tile-side instruction. -/
def State.setMask (s : State) (d : MaskField) (x : MaskReg) : State :=
  s.commit true (s.dev.blk.wm d x) (s.dev.blk.pc + 4)

/-- The same with tile `d`'s version replaced; an error in the rows that it held is over (R215). -/
def State.setTile (s : State) (tile : Bool) (d : TileNo) (v : Tile) : State :=
  { s with dev := ((Work.start s).rewritten d).dev.commit tile (s.dev.blk.setVer d v) (s.dev.blk.pc + 4) }

/-- Instruction `i` writes one plain value to s_d and does nothing else; `p` says what is known of the value. -/
def State.gives (s : State) (i : Instr) (d : Reg) (p : Word → Prop) : Prop :=
  ∃ v, exec i s = .next (s.setScalar false d (SReg.plain v)) ∧ p v

/-- Instruction `i` answers a next state, of which `p` holds. -/
def State.answers (s : State) (i : Instr) (p : State → Prop) : Prop := ∃ t, exec i s = .next t ∧ p t

/-- Instruction `i` leaves block `b` and goes on at address wrap64(x), nothing else changed. -/
def State.goesTo (s : State) (i : Instr) (b : Block) (x : Int) : Prop :=
  exec i s = .next (s.commit false b (BitVec.ofInt 64 x))

/-- Instruction `i` takes the trap of cause `c` and does nothing else (R210). -/
def State.traps (s : State) (i : Instr) (c : Cause) : Prop := exec i s = .next (s.takeTrap c 0 0 none)

/-- The same of an instruction that has made accesses before: what they count stays counted (R376). -/
def State.trapsCounted (s : State) (i : Instr) (c : Cause) : Prop :=
  ∃ d : Dev, (∀ n, { d.core n with pmc := (s.dev.core n).pmc } = s.dev.core n) ∧
    exec i s = .next (State.takeTrap { s with dev := s.dev.withCounts d } c 0 0 none)

/-! ## What operands hold -/

/-- A scalar register is not poisoned. -/
def Block.plainS (b : Block) (r : Reg) : Prop := (b.rs r).poison = Option.none

/-- A predicate is not poisoned. -/
def Block.plainP (b : Block) (p : PredReg) : Prop := (b.rp_ p).poison = Option.none

/-! ## What memory holds -/

/-- The little-endian number of `n` bytes (R5). -/
def Memory.number (m : Memory) (pa n : Nat) : Nat :=
  match n with
  | 0 => 0
  | k + 1 => (m.read pa).toNat + 256 * m.number (pa + 1) k

/-- Nothing stands between an access and this device's own memory: no request on the link, no home transaction, no error
in the cells, no dead or copied channel, no moving page, no write of the device's own units that waits, no compressed page in
use. -/
def Dev.calm (d : Dev) : Prop :=
  d.link.reqs = [] ∧ d.link.txns = [] ∧ d.link.lost = [] ∧ d.unc.upsets = [] ∧ d.unc.hbm = [] ∧ d.eng.forwards = [] ∧
    d.eng.ops = [] ∧ d.ownQueue = [] ∧ (∀ x ∈ d.unc.l2, x.packed = false) ∧ ∀ e ∈ d.unc.tlb, e.leaf.compressed = false

/-- A line of this device's own memory of which no peer holds a copy and whose data is sound. -/
def State.ownLine (s : State) (line : Nat) : Prop :=
  (line + 1) * 128 ≤ 3 * 2 ^ 60 ∧ metaState (s.tags.read line) = 0 ∧ (s.tags.read line).getLsbD 15 = false

/-- The same of a line that may be written at once: one outside the host window, or one for which BIRsp has come (R380). -/
def State.freeLine (s : State) (line : Nat) : Prop := s.ownLine line ∧ (Work.start s).hostFree line = true

/-- The same of a line outside the host window, which may be written again and again. -/
def State.openLine (s : State) (line : Nat) : Prop := s.ownLine line ∧ (Work.start s).inWindow line = false

/-- Part `u` of the unit of the block's core holds a translation of `va` that allows the access, of a page whose accesses need
no order of their own, and the block's instruction waits on no batch (R353). -/
def State.sees (s : State) (u : TlbUnit) (va : Nat) (a : Access) (l : Leaf) : Prop :=
  va < 2 ^ 48 ∧ (Work.start s).cached (s.dev.blk.spaceOf u) va = some l ∧ l.allows s.dev.blk.ps.pl a = true ∧
    l.inOrder = false ∧ 65536 ∣ l.base ∧ 65536 ∣ l.size ∧ s.dev.blk.waitsOn = Option.none

/-- Nothing but the engines' own operations stands between an agent and this device's own memory, and none of these is
switching a page (R286). -/
def Dev.still (d : Dev) : Prop := Dev.calm { d with eng := { d.eng with ops := [] } } ∧ ∀ l, d.stalled l = false

/-- The part of a core's unit that an agent uses holds a translation of `va` that allows its access. -/
def State.holds (s : State) (sp : Space) (lv : Level) (va : Nat) (a : Access) (l : Leaf) : Prop :=
  va < 2 ^ 48 ∧ (Work.start s).cached sp va = some l ∧ l.allows lv a = true ∧ 65536 ∣ l.base ∧ 65536 ∣ l.size

/-- Every byte of memory reads as before, and every line's metadata but for the marks of the copies that a slice of the
other die holds (R246). -/
def State.sameData (s t : State) : Prop :=
  (∀ a, t.mem.read a = s.mem.read a) ∧ ∀ l, t.tags.read l &&& 0x9FFF#16 = s.tags.read l &&& 0x9FFF#16

/-- A device but for the block that issues, which lines the slices hold, and counts of events. -/
def Dev.asRead (d old : Dev) : Dev :=
  { d with blk := old.blk, cores := old.cores, fresh := old.fresh, late := old.late, counted := old.counted,
           unc := { d.unc with l2 := old.unc.l2, misses := old.unc.misses } }

/-- `t` is `s` but for the block that issues, which lines the slices hold, and counts of events. -/
def State.readOnly (s t : State) : Prop := s.sameData t ∧ t.dev.asRead s.dev = s.dev

/-- A write of the device's own units goes to memory at its own address, behind no other. -/
def Dev.direct (d : Dev) : Prop := d.ownQueue = [] ∧ d.eng.forwards = []

/-- Every byte that `p` does not name reads as before, and so do the metadata of every line that holds none of them. -/
def State.outside (s t : State) (p : Nat → Prop) : Prop :=
  (∀ a, ¬ p a → t.mem.read a = s.mem.read a) ∧ ∀ l, (∀ a, p a → lineOf a ≠ l) → t.tags.read l = s.tags.read l

/-- Every byte outside `n` bytes from `pa` reads as before. -/
def State.onlyBytes (s t : State) (pa n : Nat) : Prop :=
  ∀ a, a < pa ∨ pa + n ≤ a → t.mem.read a = s.mem.read a

/-! ## What tiles hold -/

/-- Tile `t` is bound to record `r`, which is not STALE (R144, R149). -/
def Block.names (b : Block) (t : TileNo) (r : ShapeRec) : Prop := b.recOf t = some r ∧ r.stale = false

/-- A version of the record's shape fits the grant (R42, R143). -/
def Block.room (b : Block) (r : ShapeRec) : Prop := b.fits (r.storage b.place.width) = true

/-- Mask `m` is not poisoned. -/
def Block.plainM (b : Block) (m : MaskField) : Prop := (b.rm_ m).poison = Option.none

/-- No element of the tile's version is poison. -/
def Block.sound (b : Block) (t : TileNo) (r : ShapeRec) : Prop := ∀ x ∈ (b.tile t).ver.elements r, ∃ p, x = .bits p

/-- The pattern of element `e` of a sound version; an empty tile reads as zero (R145). -/
def Block.pattern (b : Block) (t : TileNo) (r : ShapeRec) (e : Nat) : Nat :=
  match ((b.tile t).ver.elements r)[e]? with
  | .some (.bits p) => p
  | _ => 0

/-- The integer that element `e` of an integer tile holds (R91). -/
def Block.integer (b : Block) (t : TileNo) (r : ShapeRec) (e : Nat) : Int :=
  let p := BitVec.ofNat r.tag.width (b.pattern t r e)
  if r.tag.signed then p.toInt else p.toNat

/-- The number that element `e` holds, scaled and promoted to `p` (R86, R89, R108). -/
def Block.number (b : Block) (t : TileNo) (r : ShapeRec) (p : Tag) (e : Nat) : Num :=
  ((((b.vals t r)[e]?).getD (.num .nan)).promoteTo r.tag p).toNum

/-- No NaN that the instruction generates becomes poison (R102). -/
def Block.noGen (b : Block) : Prop := b.csr.poisoncfg.getLsbD 2 = false

/-- An integer as an integer tag holds it: wrapped, or cut to the range (R92, R109). -/
def Tag.put (t : Tag) (sat : Bool) (n : Int) : Nat :=
  let lo : Int := if t.signed then -(2 ^ (t.width - 1)) else 0
  let hi : Int := if t.signed then 2 ^ (t.width - 1) - 1 else 2 ^ t.width - 1
  ((if sat then max lo (min hi n) else n) % 2 ^ t.width).toNat

/-- Instruction `i` writes a version of tile `d`, of the shape that `r` gives it, and changes nothing else; `p` says what
is known of the version. -/
def State.writesTile (s : State) (i : Instr) (d : TileNo) (r : ShapeRec) (p : Tile → Prop) : Prop :=
  ∃ v : Tile, exec i s = .next (s.setTile true d v) ∧ v.empty = false ∧ v.tag = r.tag ∧ v.rows = r.rows ∧
    v.cols = r.ncols ∧ p v

/-- Instruction `i` writes a version of `d` whose element `e` is `f e` where mask `m` selects `e`, and the prior element
elsewhere (R43, R152). -/
def State.writesElems (s : State) (i : Instr) (d : TileNo) (r : ShapeRec) (m : MaskField) (f : Nat → Nat) : Prop :=
  s.writesTile i d r fun v => ∀ e, e < r.size →
    v.elems[e]? = some (.bits (if (s.dev.blk.rm_ m).bit e then f e else s.dev.blk.pattern d r e))

/-- The bytes of the context's crumb log (R358). -/
def Dev.inCrumbLog (d : Dev) (a : Nat) : Prop :=
  let lb := d.logBase d.blk.id.ctx
  let base := (lb.extractLsb' 12 52).toNat * 4096
  base ≤ a ∧ a < base + 32 * 2 ^ (lb.extractLsb' 0 5).toNat

/-- Every byte of memory and every line's metadata read as before. -/
def State.sameMemory (s t : State) : Prop := (∀ a, t.mem.read a = s.mem.read a) ∧ ∀ l, t.tags.read l = s.tags.read l

/-- Two lines stand in one set of one slice (R232). -/
def Work.sameSet (w : Work) (a b : Nat) : Bool :=
  bankColumn (a * 128) == bankColumn (b * 128) && setOf (a * 128) == setOf (b * 128) &&
    w.homeSlice (a * 128) == w.homeSlice (b * 128)

/-- The home slice of a line holds it. -/
def Dev.resident (d : Dev) (line : Nat) (p : L2Line → Prop) : Prop :=
  ∃ x ∈ d.unc.l2, x.line = line ∧ x.away = false ∧ x.valid = true ∧ p x

/-! ## MX blocks -/

/-- The elements of the MX block of a row of `cols` columns in which element `e` stands (R89). -/
def blockOf (cols e : Nat) : List Nat :=
  ((List.range cols).filter fun j => j / 32 == e % cols / 32).map (e / cols * cols + ·)

/-- The place of that block's scale among the scales of the version (R89). -/
def scaleAt (cols e : Nat) : Nat := e / cols * blocksOf cols + e % cols / 32

/-- The scale of a block of results (R90): 255 where one is a NaN or an infinity, 0 where all are zero, else the exponent of
the largest magnitude less the format's, cut to -127 to 127. -/
def Tag.mxScale (t : Tag) (xs : List Num) : Nat :=
  let emax : Int := match t with
    | .e4m3 => 8
    | .e5m2 => 15
    | .e3m2 => 4
    | _ => 2
  if xs.any fun x => x == .nan || x == .inf true || x == .inf false then 255
  else match xs.filterMap Num.log2 with
    | [] => 0
    | y :: r => (max (-127) (min 127 (r.foldl max y - emax)) + 127).toNat

/-- The element of a result in a block of scale `sc` (R90). -/
def Tag.mxElem (t : Tag) (r : Round) (sc : Nat) (x : Num) : Nat :=
  if sc = 255 then 0 else t.fmt.packSat r (x.scale (127 - (sc : Int)))

/-- A version of narrow tag `t` holds the results `res` (R90, R98): a block with poison among them is poison, and one
without has the scale that `scale` gives. -/
def Tile.holdsMx (v : Tile) (t : Tag) (cols size : Nat) (res : Nat → Val) (mode : Nat → Round) (scale : Nat → Nat) : Prop :=
  ∀ e, e < size →
    match (blockOf cols e).foldl (fun a x => mergePoison a (res x).poison) .none with
    | .some c => v.elems[e]? = some (.poison c) ∧ v.scales[scaleAt cols e]? = some 255
    | .none => v.elems[e]? = some (.bits (t.mxElem (mode e) (scale e) (res e).toNum)) ∧
        v.scales[scaleAt cols e]? = some (scale e)

/-- The scale of each block by itself (R90). -/
def Tag.blockScale (t : Tag) (cols : Nat) (res : Nat → Val) (e : Nat) : Nat :=
  t.mxScale ((blockOf cols e).map fun x => (res x).toNum)

/-- One scale for the whole row, from its blocks without poison, NaN or infinity (R155). -/
def Tag.rowScale (t : Tag) (cols : Nat) (res : Nat → Val) (e : Nat) : Nat :=
  if t.blockScale cols res e = 255 then 255
  else t.mxScale ((((List.range cols).map (e / cols * cols + ·)).filter fun x => t.blockScale cols res x != 255).map
    fun x => (res x).toNum)

/-- What a commit changes of a block put back as `old` has it. -/
def Block.since (b old : Block) : Block :=
  { b with pc := old.pc, lastIssue := old.lastIssue, flight := old.flight, promoted := old.promoted,
           fencing := old.fencing }

/-! ## Tile loads and stores -/

/-- What MFMT says of a load or store of a tile of tag `t` (R182). -/
def Block.format (b : Block) (t : Tag) : Mfmt :=
  let v := b.csr.mfmt.toNat
  { enc := if v % 32 = 0 then t else Tag.ofCode (v % 32), trail := v / 32 % 4 = 1, rm := Round.ofCode (v / 128 % 8),
    sat := v / 1024 % 2 = 1 }

/-- MFMT's fields name an encoding, a placement and a mode (R182). -/
def Block.formatOk (b : Block) : Prop :=
  let v := b.csr.mfmt.toNat
  v % 32 ≤ 17 ∧ v / 32 % 4 ≤ 1 ∧ v / 128 % 8 ≤ 4

/-- Every byte of a source lies in a page of `pg` that part `u` of the core's unit holds, and in a line of this device's
own. -/
def State.reaches (s : State) (u : TlbUnit) (pg : Nat → Leaf) (a : Access) (x : Source) : Prop :=
  ∀ g ∈ x.ranges, ∀ j, j < g.2 →
    let va := wrap64 (g.1 + j)
    s.sees u (pageOf va) a (pg (pageOf va)) ∧ s.ownLine (lineOf ((pg (pageOf va)).pa va))

/-- The little-endian number of `n` bytes from a virtual address, through the pages `pg` (R5, R349). -/
def State.virtual (s : State) (pg : Nat → Leaf) (va n : Nat) : Nat :=
  match n with
  | 0 => 0
  | k + 1 => (s.mem.read ((pg (pageOf va)).pa va)).toNat + 256 * s.virtual pg (wrap64 (va + 1)) k

/-- What memory holds for an element: its pattern and its block's scale (R184). -/
def State.loaded (s : State) (pg : Nat → Leaf) (f : Mfmt) (x : Source) : Loaded :=
  { pat := s.virtual pg x.va x.bytes / 2 ^ x.shift % 2 ^ f.enc.width,
    scale := match x.scale with
      | some a => s.virtual pg a 1
      | none => 0,
    poison := none }

/-- An element of a tile whose tag is not narrow, as a load delivers it (R103, R183). -/
def Tag.take (t : Tag) (f : Mfmt) (x : Loaded) : Elem :=
  if f.enc = t then .bits (deliver t x.pat) else t.packVal f.rm f.sat (patValue f.enc x.scale x.pat)

/-- The mask register that a load or store reads: m7 in a reissue (R197). -/
def Block.loadMask (b : Block) (m : MaskField) : MaskField := if b.reissuing then 7 else m

/-- The element from which a load or store starts (R225). -/
def Block.loadStart (b : Block) : Nat := if b.ps.compat then b.csr.estart.toNat else 0

/-- The rows that m7 takes at issue (R143). -/
def Block.loadRows (b : Block) (r : ShapeRec) : Nat := if b.ps.compat then 0 else ceilDiv r.size b.place.width

/-- ESTART after a load or store of memory that performed everything: 0 under COMPAT (R225). -/
def Block.startOver (k : Block) : Word := if k.ps.compat then 0 else k.csr.estart

/-- What a load or store that performed everything leaves beside its effect: `est` in ESTART, and after a reissue an m7
of zeros and REISSUE clear (R197, R225). -/
def Block.wholeEnd (k b : Block) (n : Nat) (est : Word) : Prop :=
  b.csr = { k.csr with estart := est } ∧
    b.ps = { k.ps with reissue := k.ps.reissue && !k.reissuing } ∧
    b.again = (if k.reissuing then Option.none else k.again) ∧
    (∀ q, q ≠ 7 → b.rm_ q = k.rm_ q) ∧
    b.rm_ 7 = (if k.reissuing then { n := n, fill := false, bits := 0, poison := Option.none } else k.rm_ 7)

/-- Load `i` of tile `d` writes its version and changes no other register but ESTART, which holds `est` after it, and no
byte of memory: from element `lo` on, where mask `m` selects, what memory holds (`src`) or the fill pattern; the prior
elements elsewhere. Under m0 a tile of narrow tag that is loaded in
its own encoding keeps the stored elements and scales (R183). -/
def State.loads (s : State) (i : Instr) (d : TileNo) (r : ShapeRec) (m : MaskField) (lo : Nat)
    (src : Nat → Option Loaded) (fill : Nat) (est : Word) : Prop :=
  let k := s.dev.blk
  let f := k.format r.tag
  s.answers i fun t =>
    let b := t.dev.blk
    let v := (b.tile d).ver
    v.empty = false ∧ v.tag = r.tag ∧ v.rows = r.rows ∧ v.cols = r.ncols ∧ v.valid = r.size ∧
    (r.tag.narrow = false → ∀ e, e < r.size → v.elems[e]? = some
      (if (k.rm_ m).bit e && lo ≤ e then r.tag.take f ((src e).getD { pat := fill, scale := 127, poison := none })
       else .bits (k.pattern d r e))) ∧
    (r.tag.narrow = true → f.enc = r.tag → m = 0 → lo = 0 → ∀ e x, e < r.size → src e = some x →
      v.elems[e]? = some (.bits (if x.scale = 255 then 0 else x.pat)) ∧
      v.scales[e / r.ncols * blocksOf r.ncols + e % r.ncols / 32]? = some x.scale) ∧
    { b.since k with t := k.t, csr := k.csr, ps := k.ps, m := k.m, again := k.again } = k ∧ k.wholeEnd b r.size est ∧
    (∀ q, q ≠ d → b.tile q = k.tile q) ∧ (b.tile d).bound = (k.tile d).bound ∧ b.pc = k.pc + 4 ∧ s.sameData t ∧
    t.dev.others = s.dev.others

/-- The bytes that a committed write reaches (R267). -/
def Pend.places (e : Pend) : List Nat :=
  match e.kind with
  | .bytes bs => bs.map (·.1)
  | .merge pa _ _ => [pa]
  | .add pa t _ _ => (List.range (t.width / 8)).map (pa + ·)
  | .mark _ => []

/-- What a release puts between older writes and its own (R294). -/
def Block.releaseMark (b : Block) (o : Os) : List Pend :=
  if releases o && b.pend != [] then [{ slice := 17, line := 0, kind := .mark true, poison := false, bypass := false }] else []

/-- The committed writes `es` hold the bytes of the elements `sel`, a later element's over an earlier one's in the same
place: byte `j` of element `e` at `pa e j`, in the queue of slice `slice e` (R267, R274). -/
def writesBytes (es : List Pend) (sel : Nat → Prop) (n : Nat) (pa : Nat → Nat → Nat) (byte : Nat → Nat → Byte)
    (slice : Nat → Nat) : Prop :=
  ∀ e, sel e → ∀ j, j < n → (∀ x, sel x → e < x → ∀ y, y < n → pa x y ≠ pa e j) →
    ∃ p ∈ es, p.slice = slice e ∧ p.line = lineOf (pa e j) ∧ p.poison = false ∧
      ∃ bs, p.kind = .bytes bs ∧ (pa e j, byte e j) ∈ bs

/-- The pattern that a sound element stores in the encoding (R183, R273). -/
def Block.stored (b : Block) (t : TileNo) (r : ShapeRec) (f : Mfmt) (e : Nat) : Nat :=
  if f.enc = r.tag then b.pattern t r e
  else match f.enc.packVal f.rm f.sat (((b.vals t r)[e]?).getD (.int 0)) with
    | .bits p => p
    | .poison _ => 0

/-- The scale that the stored block of element `e` has in a narrow encoding (R90, R273). -/
def Block.storedScale (b : Block) (t : TileNo) (r : ShapeRec) (f : Mfmt) (e : Nat) : Nat :=
  if f.enc = r.tag then ((b.tile t).ver.scales[scaleAt r.ncols e]?).getD 0 % 256
  else f.enc.mxScale ((blockOf r.ncols e).map fun x => (((b.vals t r)[x]?).getD (.int 0)).toNum)

/-- The stored block of element `e` as one little-endian number: its elements from bit 0 up, and its scale behind them or
in front (R87, R184). -/
def Block.storedBlock (b : Block) (t : TileNo) (r : ShapeRec) (f : Mfmt) (e : Nat) : Nat :=
  let w := f.enc.width
  let sc := b.storedScale t r f e
  let elem (x : Nat) : Nat :=
    if f.enc = r.tag then b.pattern t r x % 2 ^ w
    else f.enc.mxElem f.rm sc (((b.vals t r)[x]?).getD (.int 0)).toNum
  let body := ((blockOf r.ncols e).map fun x => elem x * 2 ^ (w * (x % r.ncols % 32))).sum
  if f.trail then body + sc * 2 ^ (32 * w) else sc + 256 * body

/-- The places of a source's bytes, in its ranges' order. -/
def Source.places (x : Source) : List Nat :=
  x.ranges.flatMap fun g => (List.range g.2).map fun j => wrap64 (g.1 + j)

/-- A committed write gives the bits `mask` of the byte at `a` the value that they have in `v`. -/
def Pend.gives (p : Pend) (a : Nat) (mask v : Byte) : Prop :=
  match p.kind with
  | .bytes bs => ∃ b, (a, b) ∈ bs ∧ b &&& mask = v &&& mask
  | .merge pa m b => pa = a ∧ m &&& mask = mask ∧ b &&& mask = v &&& mask
  | _ => False

/-- Elements of 4 bits reach memory as `gets` says, a later one over an earlier one: each its half of a byte, the last of an
odd row the whole byte (R87, R184, R274). -/
def writesHalves (gets : Nat → Byte → Byte → Prop) (cols : Nat) (sel : Nat → Prop) (src : Nat → Option Source)
    (pa pat : Nat → Nat) : Prop :=
  let half (e : Nat) (y : Source) : Byte := if y.shift = 0 then (if e % cols + 1 = cols then 0xFF else 0x0F) else 0xF0
  ∀ e y, sel e → src e = some y →
    (∀ x z, sel x → e < x → src x = some z → pa z.va = pa y.va → half x z &&& half e y = 0) →
    gets (pa y.va) (half e y) (BitVec.ofNat 8 (pat e * 2 ^ y.shift))

/-- The stored blocks of selected elements reach memory whole, a later one over an earlier one (R184, R274). -/
def writesBlocks (gets : Nat → Byte → Byte → Prop) (cols : Nat) (sel : Nat → Prop) (src : Nat → Option Source)
    (pa block : Nat → Nat) : Prop :=
  ∀ e y j z, sel e → src e = some y → y.places[j]? = some z →
    (∀ x q, sel x → e < x → scaleAt cols x ≠ scaleAt cols e → src x = some q → pa z ∉ q.places.map pa) →
    gets (pa z) 0xFF (BitVec.ofNat 8 (block e / 256 ^ j))

/-- The queues of the block's slices hold no entry, or have room for the writes `es` (R321). -/
def Dev.takes (d : Dev) (es : List Pend) : Prop := (∀ q, d.entriesOf q = 0) ∨ d.roomFor es = true

/-- Store `i` commits and queues the writes `es` where the queues take them, nothing being performed yet; nothing else
changes (R267, R321). -/
def State.queues (s : State) (i : Instr) (o : Os) (n : Nat) (p : List Pend → Prop) : Prop :=
  let k := s.dev.blk
  ∃ es, p es ∧ (s.dev.takes es → s.answers i fun t =>
    let b := t.dev.blk
    b.pend = k.pend ++ k.releaseMark o ++ es ∧
    { b.since k with pend := k.pend, csr := k.csr, ps := k.ps, m := k.m, again := k.again } = k ∧ k.wholeEnd b n k.startOver ∧
    b.pc = k.pc + 4 ∧ s.sameMemory t ∧ t.dev.others = s.dev.others)

/-! ## The tile store -/

/-- A word of a region (R231). -/
def Block.at (b : Block) (g : Region) (i j : Nat) : AccWord := b.word (512 * (g.row + i) + g.col + j)

/-- State `t` holds the words `f` of region `g` that `sel` names; every other word and register is as in `s`. -/
def State.region (s t : State) (g : Region) (sel : Nat → Nat → Bool) (f : Nat → Nat → AccWord) : Prop :=
  let k := s.dev.blk
  let b := t.dev.blk
  (∀ x y, x < g.rows → y < g.cols → b.at g x y = if sel x y then f x y else k.at g x y) ∧
  (∀ n, (∀ x y, x < g.rows → y < g.cols → n ≠ 512 * (g.row + x) + g.col + y) → b.word n = k.word n) ∧
  { b.since k with acc := k.acc } = k ∧ b.pc = k.pc + 4 ∧ t.dev.others = s.dev.others

/-- Instruction `i` writes the words `f` of region `g` that `sel` names and changes nothing else; other words stay. -/
def State.writesRegion (s : State) (i : Instr) (g : Region) (sel : Nat → Nat → Bool) (f : Nat → Nat → AccWord) : Prop :=
  s.answers i fun t => s.sameMemory t ∧ s.region t g sel f

/-! ## Groups of instructions -/

/-- The elementwise instructions of majors 0x19 and 0x1A but TCMP and TSEL, with their sources and the class of tags that
they take (R61, R153, R154). -/
def elementInstrs (d a b : TileNo) (m : MaskField) (r : Rm) : List (Instr × List TileNo × (Tag → Bool)) :=
  let any : Tag → Bool := fun _ => true
  let float : Tag → Bool := fun t => t.isFloat && !t.narrow
  [(.tadd d a b m r, [a, b], any), (.tsub d a b m r, [a, b], any), (.tmul d a b m r, [a, b], any),
   (.tfma d a b m r, [a, b, d], any), (.tfms d a b m r, [a, b, d], any), (.tmin d a b m r, [a, b], any),
   (.tmax d a b m r, [a, b], any), (.tand d a b m r, [a, b], Tag.isInt), (.tor d a b m r, [a, b], Tag.isInt),
   (.txor d a b m r, [a, b], Tag.isInt), (.tshl d a b m r, [a, b], Tag.isInt), (.tshr d a b m r, [a, b], Tag.isInt),
   (.tabs d a m r, [a], any), (.tneg d a m r, [a], any), (.trcp d a m r, [a], float), (.trsq d a m r, [a], float),
   (.texp d a m r, [a], float), (.tlog d a m r, [a], float), (.ttanh d a m r, [a], float)]


/-- Every scalar load with its size and whether it extends the sign (R129). -/
def scalarLoads (d a b : Reg) (h : BitVec 1) (o : Os) : List (Instr × Nat × Bool) :=
  [(.ldb d a b h o, 1, true), (.ldh d a b h o, 2, true), (.ldw d a b h o, 4, true), (.ldd d a b h o, 8, false),
   (.ldbz d a b h o, 1, false), (.ldhz d a b h o, 2, false), (.ldwz d a b h o, 4, false)]

/-- Every scalar store with its size (R272). -/
def scalarStores (d a b : Reg) (h : BitVec 1) (o : Os) : List (Instr × Nat) :=
  [(.stb d a b h o, 1), (.sth d a b h o, 2), (.stw d a b h o, 4), (.std d a b h o, 8)]


/-- The instructions of majors 0x01 that read s_a and s_b alone (R122, R123). -/
def scalarPairs (d a b : Reg) (l : BitVec 6) : List Instr :=
  [.add d a b, .sub d a b, .mul d a b, .mulh d a b, .mulhu d a b, .div d a b, .divu d a b, .rem d a b, .remu d a b,
   .and d a b, .or d a b, .xor d a b, .andn d a b, .shl d a b, .shr d a b, .sra d a b, .rot d a b, .min d a b,
   .max d a b, .minu d a b, .maxu d a b, .bfx d a b l]

/-- The scalar instructions that read s_a alone (R122, R124). -/
def scalarUnary (d a : Reg) (v : BitVec 16) (c : BitVec 6) : List Instr :=
  [.clz d a, .ctz d a, .popc d a, .addi d a v, .andi d a v, .ori d a v, .xori d a v, .shli d a c, .shri d a c,
   .srai d a c, .roti d a c]

/-! ## Frames -/

/-- `t` is `s` with the block that issues changed, and at most counts of performance counters. -/
def State.blockOnly (s t : State) : Prop :=
  t.mem = s.mem ∧ t.tags = s.tags ∧ { t.dev with blk := s.dev.blk, cores := s.dev.cores, counted := s.dev.counted } = s.dev ∧
    ∀ n, { t.dev.core n with pmc := (s.dev.core n).pmc } = s.dev.core n

/-- The registers that a program sees stay: scalars, predicates, masks, shape records, tiles, tile store, scratch. -/
def Block.sameFiles (b c : Block) : Prop :=
  c.s = b.s ∧ c.p = b.p ∧ c.m = b.m ∧ c.h = b.h ∧ c.t = b.t ∧ c.acc = b.acc ∧ c.scratch = b.scratch

/-- `a` lies in the mirror of a core's lane allocation table (R357). -/
def Dev.inMirror (d : Dev) (core a : Nat) : Prop :=
  d.svc.stage = .running ∧ d.fw.mirror + 1024 * core ≤ a ∧ a < d.fw.mirror + 1024 * core + 1024

/-- `a` lies in the error log that ERRLOG names (R219). -/
def Dev.inErrorLog (d : Dev) (a : Nat) : Prop :=
  let n := (d.err.reg.extractLsb' 0 5).toNat
  let base := (d.err.reg.extractLsb' 12 52).toNat * 4096
  base ≤ a ∧ a < base + 32 * 2 ^ n

/-- `a` lies in the capability list (R365). -/
def Dev.inCapList (d : Dev) (a : Nat) : Prop :=
  d.fw.capList ≤ a ∧ a < d.fw.capList + (capBytes 0 d.capEntries).length

/-- A change of the units of `t` is noted, with the grade that R24 gives, for firmware's next update of the capability list,
which stands as it was (R25, R365). -/
def State.reported (s t : State) : Prop :=
  s.sameMemory t ∧
    t.dev.fw = { s.dev.fw with degraded := !t.dev.fullGrade, changed := some (s.dev.fw.changed.getD s.dev.clock) }

/-! ## Issue -/

/-- The instruction that issues has, or finds, a history entry and an entry of its issue queue (R143, R321). -/
def State.room (s : State) (i : Instr) : Prop :=
  s.dev.blk.flight.isSome = true ∨ s.dev.issueRoom (queueOf i) = true

/-- It takes them, unless it has them (R33, R143). -/
def State.flown (s : State) (i : Instr) : State :=
  if s.dev.blk.flight.isSome then s else { s with dev := s.dev.takeFlight i }

/-- Nothing is owed that follows of itself at the next step. -/
def Dev.tidied (d : Dev) : Prop :=
  d.lu.controls = [] ∧ d.eng.owed = [] ∧ d.ownQueue = [] ∧ d.fw.changed = none ∧ d.fw.generation % 2 = 0 ∧
    ∀ x ∈ d.lu.launches, x.saved = []

/-! ## Counters -/

/-- Counter `n` of the device has counted `k`, unless a CNTW of this clock wrote it (R375, R378). -/
def State.counts (s t : State) (n k : Nat) : Prop :=
  ((∃ x ∈ s.dev.written, x.core = Config.cores ∧ x.num = n) → t.dev.counter n = s.dev.counter n) ∧
    ((∀ x ∈ s.dev.written, ¬ (x.core = Config.cores ∧ x.num = n)) →
      t.dev.counter n = s.dev.counter n + BitVec.ofNat 64 k)

/-! ## Messages -/

/-- Event `i` sends the messages `ms`, leaves the metadata `v` of line `line`, and changes no other metadata, no byte of
memory and no block; `p` says what else is known. -/
def State.sends (s : State) (i : Instr) (ms : List Msg) (line : Nat) (v : BitVec 16) (p : State → Prop) : Prop :=
  s.answers i fun t =>
    t.dev.link.outbox = s.dev.link.outbox ++ ms ∧ t.tags.read line = v ∧
    (∀ l, l ≠ line → t.tags.read l = s.tags.read l) ∧ (∀ a, t.mem.read a = s.mem.read a) ∧ t.dev.blk = s.dev.blk ∧
    t.dev.others = s.dev.others ∧ p t

/-- A line of region 0 outside the host window, in a page whose coherence scope is DOMAIN as a unit or a context's tables
have it, with sound data and a state that the home may have written (R244, R350, R380). -/
def State.grantable (s : State) (line : Nat) : Prop :=
  line < 2 ^ 42 ∧ (Work.start s).inWindow line = false ∧ metaState (s.tags.read line) ≤ 5 ∧
    (s.tags.read line).getLsbD 15 = false ∧ (Work.start s).onPage (line * 128) (·.domain) = true

end Sys2Proof.Machine
end

