-- ==== Sys2Proof/Certificates/Slice0/Obligations.lean ====
section
/-! DEFINITION. The statements for the provers. -/

open Sys2Proof Sys2Proof.Machine

/-! ## Encoding -/

/-- Encoding loses nothing (R52 to R73): every well-formed instruction has a word, and that word decodes to it. -/
def Obligations.DecodeOfEncode : Prop :=
  ∀ i : Instr, wellFormed i = true → ∃ w, encode i = some w ∧ decode w = some i

/-- Decoding loses nothing (R52 to R73): a word that decodes is the word of the instruction read, which is well
formed. -/
def Obligations.EncodeOfDecode : Prop :=
  ∀ (w : Insn) (i : Instr), decode w = some i → wellFormed i = true ∧ encode i = some w

/-- A few words as the encodings of the spec give them, decoded; four words that mean nothing: an ADD whose aux is 1, a word of
the reserved major 0x38, all zeros and all ones (R53, R62 to R64). -/
def Obligations.WordsDecode : Prop :=
  decode 0x04221801#32 = none ∧ decode 0xE0000000#32 = none ∧ decode 0x00000000#32 = none ∧ decode 0xFFFFFFFF#32 = none ∧
  decode 0x04221800#32 = some (.add 1 2 3) ∧ decode 0x58054005#32 = some (.csrw 0 5 0x005) ∧
  decode 0x5C0000B0#32 = some (.trap 11) ∧ decode 0x5C000002#32 = some .exit ∧
  decode 0x40BFFFFF#32 = some (.b 0 2 0x3FFFFF)

/-! ## The machine as a whole -/

/-- Every step of every state answers a next state, neither a fault nor a refusal (R209, R210: what goes wrong is
trapped, killed or recorded), and keeps memory and line metadata in the model's own canonical form. -/
def Obligations.StepKeepsWellFormed : Prop := ∀ s : State, ∃ t, step s = .next t ∧ (s.wf = true → t.wf = true)

/-- R117, R120, R138, R144, R158, R203, R205, R218, R219, R244, R372, R376: the machine right after reset, and what a new
block holds. That memory reads as zero and that no block exists before a launch is the model's own form (log entries
1, 3). -/
def Obligations.ResetState : Prop :=
  let d := State.reset.dev
  State.reset.wf = true ∧ d.lu.launches = [] ∧ d.blocks.all (fun b => !b.resident) = true ∧
  (∀ n, State.reset.tags.read n = 0) ∧ (∀ n, d.counter n = 0) ∧ d.err.reg = 0 ∧
  (∀ n, (d.core n).cap = 128 ∧ (d.core n).pmc = Vector.replicate 8 0 ∧ (d.core n).pmsel = Vector.replicate 8 0) ∧
  d.scrubField 0 = 16 ∧ d.scrubField 1 = 16 ∧ d.scrubField 2 = 15 ∧ d.scrubField 3 = 12 ∧ d.scrubField 4 = 30 ∧
  ∀ (l : Launch) (c : Context) (lin clock : Nat) (p : Place),
    let b := l.newBlock c lin p clock
    b.id.key = { lid := l.lid, lin := lin } ∧ b.run = .ready ∧ b.pc = l.hdr.entry ∧
    (∀ r, b.rs r = SReg.plain 0) ∧ (∀ q, q ≠ 0 → b.rp_ q = PReg.plain false) ∧ b.rp_ 0 = PReg.plain true ∧
    (b.rm_ 0).poison = none ∧ (∀ e, (b.rm_ 0).bit e = true) ∧ (∀ q, q ≠ 0 → b.rm_ q = MaskReg.reset) ∧
    (∀ n : RecNo, b.h[n.toNat] = ShapeRec.reset) ∧
    (∀ t, (b.tile t).bound = none ∧ (b.tile t).ver.empty = true) ∧ (∀ n, b.word n = AccWord.zero) ∧
    b.ps.pl = c.level ∧ b.ps.intrap = false ∧ b.ps.reissue = false ∧ b.ps.marble = false ∧ b.ps.notice = false ∧
    b.ps.compat = l.hdr.compat ∧ b.csr.srseed = l.hdr.srseed ∧ b.csr.poisoncfg.toNat = l.hdr.poison % 2 ^ 64 ∧
    b.csr.bypassth = 0x100000 ∧ b.csr.trapvec = 0 ∧ b.csr.noticepc = 0 ∧ b.csr.mfmt = 0 ∧ b.csr.estart = 0 ∧ b.csr.caphead = c.caphead

/-- R33, R53, R121, R135, R286, R350: a step runs the instruction whose word stands at the program counter of the
block that issues, or in its loop-capture buffer, or the event that stands first on the agenda; time has passed (R372),
the rows that an issue reads are awake (R217), the fetch has gone through L2 (R235), history buffer and issue queue have
taken the instruction (R143, R321), and a word that means nothing traps. That agenda and owed events go before an issue (log
entry 4), that a fetch reads memory as it stands (log entry 8), and that the bytes of a poisoned line run (log entry 62) are
the model's choices. -/
def Obligations.StepRunsInstruction : Prop :=
  ∀ (s : State) (i : Instr) (r : List Todo) (l : Leaf) (b : LoopBuf) (c : Insn),
    let u := s.tick
    let k := s.dev.blk
    let next : Dev := { u.dev with agenda := r }
    let issuing (d : Dev) : State := { u with dev := d.spaced.wakeRows }
    let pa := (Work.start s).redirect (l.pa k.pc.toNat)
    let word : Insn := BitVec.ofNat 32 (s.mem.number pa 4)
    let fetched (d : Dev) : State := ((Work.start (issuing d)).accessL2 (lineOf pa) false .plain).settle (issuing d)
    let looped (d : Dev) : State :=
      { issuing d with dev := if k.flight.isSome then (issuing d).dev else (issuing d).dev.countFor 13 1 }
    let ready : Prop := (∀ b, k.batch = some b → b.fetch = false) ∧ s.dev.unc.upsets = []
    let runs (d : Dev) : Prop :=
      d.spaced.canIssue k = true → ((Work.start (issuing d)).claim (lineOf pa) false).1 = true →
        l.allows k.ps.pl .fetch = true → decode word = some i →
        ((fetched d).room i → step s = exec i ((fetched d).flown i)) ∧
        (¬ (fetched d).room i → step s = .next { fetched d with dev := (fetched d).dev.historyFull.held })
    s.dev.tidied →
    (s.dev.agenda = .event i :: r → step s = exec i { u with dev := next }) ∧
    (s.dev.agenda = .issue k.id.key :: r → next.spaced.canIssue k = false →
      step s = .next { u with dev := next.spaced }) ∧
    (ready → k.loop = none → k.pc.toNat < 2 ^ 48 → (Work.start s).cached k.space k.pc.toNat = some l → regionOf pa ≠ 3 →
      (s.dev.agenda = .issue k.id.key :: r → runs next) ∧
      (s.dev.agenda = [] → u.due = none → u.dev.nextIssuer = some k.id.key → runs u.dev) ∧
      (next.spaced.canIssue k = true → s.dev.agenda = .issue k.id.key :: r →
        (((Work.start (issuing next)).claim (lineOf pa) false).1 = true → l.allows k.ps.pl .fetch = true →
          decode word = none → step s = .next ((fetched next).takeTrap .illegal 0 0 none)) ∧
        (l.allows k.ps.pl .fetch = false → step s = .next ((issuing next).takeTrap .fetchFault 0 0 none)))) ∧
    (ready → k.loop = some b → b.at k.pc = some c → decode c = some i → s.dev.agenda = .issue k.id.key :: r →
      next.spaced.canIssue k = true → (looped next).room i → step s = exec i ((looped next).flown i)) ∧
    (s.dev.agenda = [] → u.due = some i → u.dev.nextIssuer = none → step s = exec i u)

/-! ## Scalar instructions -/

/-- R122: the sums and products, and the lesser and greater, of plain operands; s_d takes the value and nothing else
changes. R126: ADDX gives the exact sum, traps where it leaves 64 bits, and makes no range check on poison. It says
where these complete: ADD, SUB, MUL, MULH, MULHU, MIN, MAX, MINU, MAXU, ADDX. -/
def Obligations.ScalarArithmeticResult : Prop :=
  (∀ (s : State) (d a b : Reg), s.dev.blk.plainS a → s.dev.blk.plainS b →
    let x := s.dev.blk.sv a
    let y := s.dev.blk.sv b
    s.gives (.add d a b) d (fun v => v.toNat = (x.toNat + y.toNat) % 2 ^ 64) ∧
    s.gives (.sub d a b) d (fun v => (v.toNat : Int) = ((x.toNat : Int) - (y.toNat : Int)) % 2 ^ 64) ∧
    s.gives (.mul d a b) d (fun v => v.toNat = x.toNat * y.toNat % 2 ^ 64) ∧
    s.gives (.mulh d a b) d (fun v => v.toInt = x.toInt * y.toInt / 2 ^ 64) ∧
    s.gives (.mulhu d a b) d (fun v => v.toNat = x.toNat * y.toNat / 2 ^ 64) ∧
    s.gives (.min d a b) d (fun v => v.toInt = min x.toInt y.toInt) ∧
    s.gives (.max d a b) d (fun v => v.toInt = max x.toInt y.toInt) ∧
    s.gives (.minu d a b) d (fun v => v.toNat = min x.toNat y.toNat) ∧
    s.gives (.maxu d a b) d (fun v => v.toNat = max x.toNat y.toNat)) ∧
  (∀ (s : State) (d a b : Reg) (n : BitVec 3),
    let k := s.dev.blk
    let v : Int := (k.sv a).toNat + (k.sv b).toInt * 2 ^ n.toNat
    (∀ e, mergePoison (k.rs a).poison (k.rs b).poison = some e →
      exec (.addx d a b n) s = .next (s.setScalar false d (SReg.bad e))) ∧
    (k.plainS a → k.plainS b →
      (v < 0 ∨ 2 ^ 64 ≤ v → exec (.addx d a b n) s = .next (s.takeTrap .addxOverflow 0 0 none)) ∧
      (0 ≤ v → v < 2 ^ 64 → s.gives (.addx d a b n) d (fun r => (r.toNat : Int) = v))))

/-- R123: quotients and remainders of plain operands, a divisor of 0 and the signed overflow with them. It says where
these complete: DIV, DIVU, REM, REMU. -/
def Obligations.DivisionResult : Prop :=
  ∀ (s : State) (d a b : Reg), s.dev.blk.plainS a → s.dev.blk.plainS b →
    let x := s.dev.blk.sv a
    let y := s.dev.blk.sv b
    s.gives (.div d a b) d (fun v =>
      if y = 0 then v.toInt = -1
      else if x.toInt = -2 ^ 63 ∧ y.toInt = -1 then v.toInt = -2 ^ 63
      else v.toInt = (x.toInt * y.toInt).sign * ((x.toInt.natAbs / y.toInt.natAbs : Nat) : Int)) ∧
    s.gives (.rem d a b) d (fun v =>
      if y = 0 then v = x
      else if x.toInt = -2 ^ 63 ∧ y.toInt = -1 then v = 0
      else v.toInt = x.toInt - (x.toInt * y.toInt).sign * ((x.toInt.natAbs / y.toInt.natAbs : Nat) : Int) * y.toInt) ∧
    s.gives (.divu d a b) d (fun v => v.toNat = if y = 0 then 2 ^ 64 - 1 else x.toNat / y.toNat) ∧
    s.gives (.remu d a b) d (fun v => v.toNat = if y = 0 then x.toNat else x.toNat - x.toNat / y.toNat * y.toNat)

/-- R122: the logical operations, shifts and bit fields of plain operands, bit by bit or as numbers. R124, R125: the
immediate forms and the upper immediates. It says where these complete: AND, OR, XOR, ANDN, SHL, SHR, SRA, ROT, CLZ,
CTZ, POPC, BFX, BFI, ADDI, ANDI, ORI, XORI, SHLI, SHRI, SRAI, ROTI, LUI, AUIPC. -/
def Obligations.ScalarBitsResult : Prop :=
  (∀ (s : State) (d a b : Reg) (l : BitVec 6), s.dev.blk.plainS a → s.dev.blk.plainS b →
    let k := s.dev.blk
    let x := k.sv a
    let y := k.sv b
    let n := y.toNat % 64
    let len := if l = 0 then 64 else l.toNat
    s.gives (.and d a b) d (fun v => ∀ i, v.getLsbD i = (x.getLsbD i && y.getLsbD i)) ∧
    s.gives (.or d a b) d (fun v => ∀ i, v.getLsbD i = (x.getLsbD i || y.getLsbD i)) ∧
    s.gives (.xor d a b) d (fun v => ∀ i, v.getLsbD i = (x.getLsbD i != y.getLsbD i)) ∧
    s.gives (.andn d a b) d (fun v => ∀ i, v.getLsbD i = (x.getLsbD i && !y.getLsbD i)) ∧
    s.gives (.shl d a b) d (fun v => v.toNat = x.toNat * 2 ^ n % 2 ^ 64) ∧
    s.gives (.shr d a b) d (fun v => v.toNat = x.toNat / 2 ^ n) ∧
    s.gives (.sra d a b) d (fun v => v.toInt = x.toInt / 2 ^ n) ∧
    s.gives (.rot d a b) d (fun v => v.toNat = (x.toNat * 2 ^ n % 2 ^ 64) ||| (x.toNat / 2 ^ (64 - n))) ∧
    s.gives (.clz d a) d (fun v => v.toNat ≤ 64 ∧ (∀ i, 64 - v.toNat ≤ i → x.getLsbD i = false) ∧
      (v.toNat < 64 → x.getLsbD (63 - v.toNat) = true)) ∧
    s.gives (.ctz d a) d (fun v => v.toNat ≤ 64 ∧ (∀ i, i < v.toNat → x.getLsbD i = false) ∧
      (v.toNat < 64 → x.getLsbD v.toNat = true)) ∧
    s.gives (.popc d a) d (fun v => v.toNat = ((List.range 64).filter fun i => x.getLsbD i).length) ∧
    s.gives (.bfx d a b l) d (fun v => v.toNat = x.toNat / 2 ^ n % 2 ^ len) ∧
    (k.plainS d → s.gives (.bfi d a b l) d (fun v => ∀ i, i < 64 →
      v.getLsbD i = if n ≤ i ∧ i < n + len then x.getLsbD (i - n) else (k.sv d).getLsbD i))) ∧
  (∀ (s : State) (d a : Reg) (v : BitVec 16) (c : BitVec 6) (u : BitVec 21),
    let k := s.dev.blk
    let x := k.sv a
    (k.plainS a →
      s.gives (.addi d a v) d (fun r => (r.toNat : Int) = ((x.toNat : Int) + v.toInt) % 2 ^ 64) ∧
      s.gives (.andi d a v) d (fun r => r.toNat = x.toNat &&& v.toNat) ∧
      s.gives (.ori d a v) d (fun r => r.toNat = x.toNat ||| v.toNat) ∧
      s.gives (.xori d a v) d (fun r => r.toNat = x.toNat ^^^ v.toNat) ∧
      s.gives (.shli d a c) d (fun r => r.toNat = x.toNat * 2 ^ c.toNat % 2 ^ 64) ∧
      s.gives (.shri d a c) d (fun r => r.toNat = x.toNat / 2 ^ c.toNat) ∧
      s.gives (.srai d a c) d (fun r => r.toInt = x.toInt / 2 ^ c.toNat) ∧
      s.gives (.roti d a c) d (fun r => r.toNat = (x.toNat * 2 ^ c.toNat % 2 ^ 64) ||| (x.toNat / 2 ^ (64 - c.toNat)))) ∧
    s.gives (.lui d u) d (fun r => (r.toNat : Int) = u.toInt * 2 ^ 16 % 2 ^ 64) ∧
    s.gives (.auipc d u) d (fun r => (r.toNat : Int) = ((k.pc.toNat : Int) + u.toInt * 2 ^ 16) % 2 ^ 64))

/-- R100, R101, R118, R124: poisoned sources poison the result under pmerge, whatever the operation; SEL carries the
chosen operand's poison alone, or its predicate's. R100: pmerge keeps the lower origin, and the merge flag tells that
two origins met or that one was merged; a plain operand takes no part. It says where these complete: BFI, SEL. -/
def Obligations.ScalarPoisonMerges : Prop :=
  (∀ (s : State) (d a b : Reg) (l : BitVec 6) (v : BitVec 16) (c : BitVec 6) (p : PredReg) (e : Crumb),
    let k := s.dev.blk
    (mergePoison (k.rs a).poison (k.rs b).poison = some e →
      ∀ i ∈ scalarPairs d a b l, exec i s = .next (s.setScalar false d (SReg.bad e))) ∧
    (mergePoison (k.rs d).poison (mergePoison (k.rs a).poison (k.rs b).poison) = some e →
      exec (.bfi d a b l) s = .next (s.setScalar false d (SReg.bad e))) ∧
    ((k.rs a).poison = some e → ∀ i ∈ scalarUnary d a v c, exec i s = .next (s.setScalar false d (SReg.bad e))) ∧
    ((k.rp_ p).poison = some e → exec (.sel d a b p) s = .next (s.setScalar false d (SReg.bad e))) ∧
    (k.plainP p → exec (.sel d a b p) s =
      .next (s.setScalar false d (if (k.rp_ p).val then k.rs a else k.rs b)))) ∧
  (∀ x y : Crumb, mergePoison none (some y) = some y ∧ mergePoison (some x) none = some x ∧
    ∃ z, mergePoison (some x) (some y) = some z ∧ z.origin.toNat = min x.origin.toNat y.origin.toNat ∧
      (z.merged = true ↔ x.merged = true ∨ y.merged = true ∨ x.origin ≠ y.origin))

/-- R127, R128: compares and predicate operations; a poisoned source poisons the predicate, which then holds false.
Writing s_d gives it the value, and s0 stays zero (R57, R117); likewise p_d and p0 (R120), m_d and m0 (R158). It says
where these complete: CMP, CMPI, PAND, POR, PXOR, PNOT, PMOV. -/
def Obligations.PredicateResult : Prop :=
  (∀ (s : State) (d : PredReg) (a b : Reg) (q r : PredReg) (c : BitVec 4) (c3 : BitVec 3) (v : BitVec 13) (e : Crumb),
    let k := s.dev.blk
    let x := k.sv a
    let y := k.sv b
    let z := (k.rp_ q).val
    let w := (k.rp_ r).val
    let meets (n : Nat) (x y : Word) (t : Bool) : Prop :=
      (n = 0 → (t = true ↔ x.toNat = y.toNat)) ∧ (n = 1 → (t = true ↔ x.toNat ≠ y.toNat)) ∧
      (n = 2 → (t = true ↔ x.toInt < y.toInt)) ∧ (n = 3 → (t = true ↔ y.toInt ≤ x.toInt)) ∧
      (n = 4 → (t = true ↔ x.toNat < y.toNat)) ∧ (n = 5 → (t = true ↔ y.toNat ≤ x.toNat))
    (k.plainS a → k.plainS b →
      ∃ t, exec (.cmp d a b c) s = .next (s.setPred d (PReg.plain t)) ∧ meets c.toNat x y t) ∧
    (k.plainS a →
      ∃ t, exec (.cmpi d a c3 v) s = .next (s.setPred d (PReg.plain t)) ∧ meets c3.toNat x (BitVec.ofInt 64 v.toInt) t) ∧
    (k.plainP q → k.plainP r →
      exec (.pand d q r) s = .next (s.setPred d (PReg.plain (z && w))) ∧
      exec (.por d q r) s = .next (s.setPred d (PReg.plain (z || w))) ∧
      exec (.pxor d q r) s = .next (s.setPred d (PReg.plain (z != w)))) ∧
    (k.plainP q →
      exec (.pnot d q) s = .next (s.setPred d (PReg.plain (!z))) ∧
      exec (.pmov d q) s = .next (s.setPred d (PReg.plain z))) ∧
    (mergePoison (k.rs a).poison (k.rs b).poison = some e →
      exec (.cmp d a b c) s = .next (s.setPred d { val := false, poison := some e })) ∧
    ((k.rs a).poison = some e →
      exec (.cmpi d a c3 v) s = .next (s.setPred d { val := false, poison := some e })) ∧
    (mergePoison (k.rp_ q).poison (k.rp_ r).poison = some e →
      ∀ i ∈ [Instr.pand d q r, .por d q r, .pxor d q r],
        exec i s = .next (s.setPred d { val := false, poison := some e })) ∧
    ((k.rp_ q).poison = some e →
      ∀ i ∈ [Instr.pnot d q, .pmov d q], exec i s = .next (s.setPred d { val := false, poison := some e }))) ∧
  (∀ (b : Block) (d e : Reg) (p q : PredReg) (m n : MaskField) (x : SReg) (y : PReg) (z : MaskReg),
    (b.ws d x).rs e = (if e = d ∧ d ≠ 0 then x else b.rs e) ∧ b.rs 0 = SReg.plain 0 ∧
    (b.wp p y).rp_ q = (if q = p ∧ p ≠ 0 then y else b.rp_ q) ∧ b.rp_ 0 = PReg.plain true ∧
    (b.wm m z).rm_ n = (if n = m ∧ m ≠ 0 then z else b.rm_ n) ∧
    ((b.rm_ 0).poison = none ∧ ∀ e, (b.rm_ 0).bit e = true))

/-- The frame of the scalar register instructions (R57, R117, R122 to R128): s_d or p_d alone changes, s0 and p0
never; the program counter goes on by 4; every byte of memory and every other register of the device stays. -/
def Obligations.ScalarFrame : Prop :=
  ∀ (s t : State) (d a b : Reg) (l : BitVec 6) (v : BitVec 16) (c : BitVec 6) (u : BitVec 21) (p q r : PredReg)
    (c4 : BitVec 4) (c3 : BitVec 3) (w : BitVec 13),
    (∀ i ∈ scalarPairs d a b l ++ scalarUnary d a v c ++ [.bfi d a b l, .sel d a b p, .lui d u, .auipc d u],
      exec i s = .next t →
        s.blockOnly t ∧ s.sameMemory t ∧ t.dev.blk.pc = s.dev.blk.pc + 4 ∧
        { t.dev.blk.since s.dev.blk with s := s.dev.blk.s } = s.dev.blk ∧
        (∀ x, x ≠ d → t.dev.blk.rs x = s.dev.blk.rs x) ∧ t.dev.blk.rs 0 = SReg.reset) ∧
    (∀ i ∈ [Instr.cmp q a b c4, .cmpi q a c3 w, .pand q p r, .por q p r, .pxor q p r, .pnot q p, .pmov q p],
      exec i s = .next t →
        s.blockOnly t ∧ s.sameMemory t ∧ t.dev.blk.pc = s.dev.blk.pc + 4 ∧
        { t.dev.blk.since s.dev.blk with p := s.dev.blk.p } = s.dev.blk ∧
        (∀ x, x ≠ q → t.dev.blk.rp_ x = s.dev.blk.rp_ x) ∧ t.dev.blk.rp_ 0 = PReg.plain true)

/-! ## Control flow and exceptions -/

/-- R121, R131, R133: where each transfer goes, and the link and the counter that it writes. Loop capture changes no
result (R134 to R136): a LOOP that falls through empties the buffer that it filled, and one that branches back while the
buffer is in use keeps it; one whose body stands in one page that the core's unit holds, in lines of this device's own,
leaves memory as it was. That a LOOP waits for words of a peer or of a line held elsewhere is log entry 83. It says where
these complete: B, BZ, BNZ, J, JAL, JR, LOOP. -/
def Obligations.TransferResult : Prop :=
  (∀ (s : State) (n : BitVec 1) (p : PredReg) (o : BitVec 22) (a d : Reg) (z : BitVec 20) (u : BitVec 21) (v : BitVec 16),
    let k := s.dev.blk
    let here : Int := k.pc.toNat
    let link := k.ws d (SReg.plain (BitVec.ofInt 64 (here + 4)))
    (k.plainP p → s.goesTo (.b n p o) k
      (if ((k.rp_ p).val = true ↔ n = 0) then here + 4 * o.toInt else here + 4)) ∧
    (k.plainS a →
      s.goesTo (.bz a z) k (if k.sv a = 0 then here + 4 * z.toInt else here + 4) ∧
      s.goesTo (.bnz a z) k (if k.sv a = 0 then here + 4 else here + 4 * z.toInt) ∧
      ((k.sv a).toNat % 4 = 0 → s.goesTo (.jr d a) link (k.sv a).toNat) ∧
      ((k.sv a).toNat % 4 ≠ 0 → s.traps (.jr d a) .pcAlign)) ∧
    s.goesTo (.j u) k (here + 4 * u.toInt) ∧
    s.goesTo (.jal d u) link (here + 4 * u.toInt) ∧
    (k.plainS d → (k.sv d).toNat ≤ 1 → k.loop = none → s.goesTo (.loop d v) (k.ws d (SReg.plain 0)) (here + 4)) ∧
    (k.plainS d → 1 < (k.sv d).toNat →
      let start : Word := BitVec.ofInt 64 (here + 4 * v.toInt)
      let body : List Nat := (List.range ((k.pc.toNat - start.toNat) / 4)).map fun j => start.toNat + 4 * j
      (((Work.start s).capture start k.pc).1 = true → s.answers (.loop d v) fun t =>
        t.dev.blk.pc = start ∧ (t.dev.blk.rs d).poison = none ∧
        (t.dev.blk.sv d).toNat = (k.sv d).toNat - 1 ∧ (∀ r, r ≠ d → t.dev.blk.rs r = k.rs r) ∧
        { t.dev.blk.since k with s := k.s, loop := k.loop } = k) ∧
      (∀ l : Leaf, s.dev.calm →
        (∀ x ∈ body, x < 2 ^ 48 ∧ (Work.start s).cached k.space x = some l ∧ s.ownLine (lineOf (l.pa x))) →
        ((Work.start s).capture start k.pc).1 = true ∧ s.answers (.loop d v) fun t => s.readOnly t))) ∧
  (∀ (s : State) (d : Reg) (v : BitVec 16) (l : LoopBuf),
    let k := s.dev.blk
    k.loop = some l → k.plainS d →
      ((k.sv d).toNat ≤ 1 → s.answers (.loop d v) fun t =>
        t.dev.blk.loop = (if l.last = k.pc then none else some l) ∧ t.dev.blk.pc = k.pc + 4) ∧
      (1 < (k.sv d).toNat → s.answers (.loop d v) fun t => t.dev.blk.loop = some l))

/-- R132: a transfer never proceeds on poison: it traps, and where a handler is there TRAPPC holds its address and
link and counter stand. -/
def Obligations.TransferPoisonTraps : Prop :=
  ∀ (s : State) (n : BitVec 1) (p : PredReg) (o : BitVec 22) (a d : Reg) (z : BitVec 20) (v : BitVec 16),
    let k := s.dev.blk
    let held (c : Cause) : Prop := (s.takeTrap c 0 0 none).dev.blk.s = k.s ∧
      (k.csr.trapvec ≠ 0 → k.ps.intrap = false → (s.takeTrap c 0 0 none).dev.blk.csr.trappc = k.pc)
    ((k.rp_ p).poison ≠ none → s.traps (.b n p o) .poisonBranch) ∧
    ((k.rs a).poison ≠ none → s.traps (.bz a z) .poisonBranch ∧ s.traps (.bnz a z) .poisonBranch ∧
      s.traps (.loop a v) .poisonBranch ∧ s.traps (.jr d a) .poisonAddr) ∧
    held .poisonBranch ∧ held .poisonAddr

/-- R210: taking an exception saves cause, address, element and fault information, sets INTRAP, goes to TRAPVEC and
empties the loop-capture buffer; every register file and all of memory stand, but that a faulted MMAV reaches its stop
point first (R259). That REISSUE falls at a PAGE_FAULT of the reissue alone, known by the program counter kept, is the
model's reading (log entry 84). R209, R210: a cause of class K, a trap without a handler and a trap inside a handler kill
the block: it is RETIRED, its launch counts it and is marked killed, and the other blocks stand. -/
def Obligations.TrapEntryResult : Prop :=
  (∀ (s : State) (c : Cause) (code elem : Nat) (flt : Option Word),
    let k := s.dev.blk
    c.kills = false → k.csr.trapvec ≠ 0 → k.ps.intrap = false → code < 128 → elem < 2 ^ 32 →
    let t := s.takeTrap c code elem flt
    let b := t.dev.blk
    b.csr = { k.csr with trapcause := BitVec.ofNat 64 (c.number + 256 * code),
                         trappc := if c = .trap then k.pc + 4 else k.pc,
                         traptile := BitVec.ofNat 64 elem, fltinfo := flt.getD k.csr.fltinfo } ∧
    b.ps = { k.ps with intrap := true,
                       reissue := k.ps.reissue && !(c == .pageFault && k.again == some k.pc) } ∧
    b.pc = k.csr.trapvec ∧ b.loop = none ∧ { k with acc := b.acc }.sameFiles b ∧
    (k.stop = none → b.acc = k.acc ∧ b.rp = k.rp) ∧
    (∀ p, k.stop = some p → b.stop = none ∧ b.rp = p.rows ∧ b.rpAddr = p.pc) ∧ b.run = k.run ∧ b.place = k.place ∧ b.id = k.id ∧
    s.sameMemory t ∧ t.dev.others = s.dev.others ∧ t.dev.lu = s.dev.lu) ∧
  (∀ (s : State) (c : Cause) (code elem : Nat) (flt : Option Word),
    let k := s.dev.blk
    c.kills = true ∨ k.csr.trapvec = 0 ∨ k.ps.intrap = true →
    let t := s.takeTrap c code elem flt
    t.dev.blk.run = .retired ∧ t.dev.blk.id = k.id ∧ t.dev.others = s.dev.others ∧
    (∀ l, s.dev.launch k.id.key.lid = some l →
      t.dev.launch k.id.key.lid = some { l with retired := l.retired + 1, killed := true }) ∧
    (∀ n, n ≠ k.id.key.lid → t.dev.launch n = s.dev.launch n))

/-- R208: TRAP commits and then traps with its code and the address of the next word. R208, R221: RTH returns to
TRAPPC and clears INTRAP; outside a handler it traps, and a TRAPPC that is no word's address traps. NOTICEDONE returns
to NRETPC and clears NOTICE, and saves the block where a request is pending. R41, R208: EXIT retires the block; YIELD
keeps it from issuing for 16 clocks; WAIT makes it WAITING until n CYCLE counts have passed, and does nothing for n =
0. It says where these complete: TRAP, WAIT, RTH, EXIT, YIELD, NOTICEDONE. -/
def Obligations.TrapReturnExitWait : Prop :=
  (∀ (s : State) (v : BitVec 7),
    let k := s.dev.blk
    k.csr.trapvec ≠ 0 → k.ps.intrap = false → k.stop = none →
    s.answers (.trap v) fun t =>
      t.dev.blk.csr.trapcause = BitVec.ofNat 64 (29 + 256 * v.toNat) ∧ t.dev.blk.csr.trappc = k.pc + 4 ∧
      t.dev.blk.csr.traptile = 0 ∧ t.dev.blk.csr.fltinfo = k.csr.fltinfo ∧ t.dev.blk.pc = k.csr.trapvec ∧
      t.dev.blk.ps = { k.ps with intrap := true } ∧ k.sameFiles t.dev.blk ∧ s.sameMemory t) ∧
  (∀ s : State,
    let k := s.dev.blk
    (k.ps.intrap = true → k.csr.trappc.toNat % 4 = 0 →
      s.goesTo .rth { k with ps := { k.ps with intrap := false } } k.csr.trappc.toNat) ∧
    (k.ps.intrap = true → k.csr.trappc.toNat % 4 ≠ 0 → s.traps .rth .pcAlign) ∧
    (k.ps.intrap = false → s.traps .rth .sysState) ∧
    (k.ps.notice = true → k.preempt = none →
      s.goesTo .noticedone { k with ps := { k.ps with notice := false }, window := none } k.csr.nretpc.toNat) ∧
    (∀ p, k.ps.notice = true → k.preempt = some p →
      s.goesTo .noticedone { k with ps := { k.ps with notice := false }, window := none, run := .saving,
                                    preempt := some { p with resume := k.csr.nretpc } } k.csr.nretpc.toNat) ∧
    (k.ps.notice = false → s.traps .noticedone .sysState)) ∧
  (∀ (s : State) (a : Reg),
    let k := s.dev.blk
    s.answers .exit (fun t =>
      t.dev.blk.run = .retired ∧ k.sameFiles t.dev.blk ∧ t.dev.blk.pend = k.pend ∧ t.dev.others = s.dev.others ∧
      (∀ l, s.dev.launch k.id.key.lid = some l →
        t.dev.launch k.id.key.lid = some { l with retired := l.retired + 1 }) ∧
      (s.dev.direct → s.outside t (s.dev.inMirror k.place.core))) ∧
    s.goesTo .yield { k with yieldUntil := s.dev.clock + 16 } (k.pc.toNat + 4) ∧
    (k.plainS a → (k.sv a).toNat < 2 ^ 32 →
      s.goesTo (.wait a) (if k.sv a = 0 then k
        else { k with run := .waiting, wait := .clocks (s.dev.cycle k.place.core + (k.sv a).toNat) }) (k.pc.toNat + 4)) ∧
    (k.plainS a → 2 ^ 32 ≤ (k.sv a).toNat → s.traps (.wait a) .sysState) ∧
    ((k.rs a).poison ≠ none → s.traps (.wait a) .poisonCtrl))

/-- R202 to R207: what a read of each control register gives, for every register of the map. R53, R202, R204, R205,
R377: a register or counter that the block's level does not reach traps with PRIV, a write of one that takes none with
ILLEGAL, and a poisoned value with POISON_CTRL. It says where these complete: CSRR. -/
def Obligations.ControlRegisterReads : Prop :=
  (∀ (s : State) (d : Reg),
    let k := s.dev.blk
    let c := k.csr
    let i := k.id
    let p := k.place
    let gives (n : Nat) (v : Nat) : Prop :=
      exec (.csrr d (BitVec.ofNat 12 n)) s = .next (s.setScalar false d (SReg.plain (BitVec.ofNat 64 v)))
    let flag (b : Bool) (w : Nat) : Nat := if b then w else 0
    gives 0x000 c.srseed.toNat ∧ gives 0x001 c.mfmt.toNat ∧ gives 0x002 c.poisoncfg.toNat ∧
    gives 0x003 c.bypassth.toNat ∧ gives 0x004 c.trapvec.toNat ∧ gives 0x005 c.noticepc.toNat ∧
    gives 0x006 c.estart.toNat ∧
    gives 0x010 ((match k.ps.pl with | .user => 0 | .super => 1 | .firm => 2) + flag k.ps.intrap 4 +
      flag k.ps.reissue 8 + flag k.ps.marble 16 + flag k.ps.notice 32 + flag k.ps.compat 64) ∧
    gives 0x011 c.trapcause.toNat ∧ gives 0x012 c.trappc.toNat ∧ gives 0x013 c.traptile.toNat ∧
    gives 0x014 c.fltinfo.toNat ∧ gives 0x015 c.nretpc.toNat ∧
    (i.x < 2 ^ 16 → i.y < 2 ^ 16 → i.z < 2 ^ 16 → i.member < 64 →
      gives 0x020 (i.x + 2 ^ 16 * i.y + 2 ^ 32 * i.z + 2 ^ 48 * i.member)) ∧
    (p.core < 2 ^ 9 → p.part < 4 → p.lane < 128 → p.share < 256 →
      gives 0x021 (p.core + 2 ^ 9 * p.part + 2 ^ 11 * p.lane + 2 ^ 18 * p.share)) ∧
    (i.gang < 2 ^ 32 → gives 0x022 i.gang) ∧ (i.gangSize < 128 → gives 0x023 i.gangSize) ∧
    gives 0x024 i.key.lid ∧ (i.ctx < 4096 → i.asid < 65536 → gives 0x025 (i.ctx + 65536 * i.asid)) ∧
    gives 0x026 (if k.ps.marble then p.share / 2 else p.share) ∧
    (∀ l, s.dev.launch i.key.lid = some l → gives 0x027 l.eleft.toNat) ∧
    gives 0x028 s.dev.clock ∧ gives 0x030 c.caphead.toNat ∧
    gives 0x100 (s.dev.logBase i.ctx).toNat ∧
    (k.ps.pl = .firm → gives 0x200 s.dev.scrubcfg.toNat ∧ gives 0x201 s.dev.err.reg.toNat)) ∧
  (∀ (s : State) (d a : Reg) (n : BitVec 12),
    let k := s.dev.blk
    (k.ps.pl = .user → s.traps (.csrw d a 0x100) .priv ∧ s.traps (.csrs d a 0x100) .priv ∧ s.traps (.csrc d a 0x100) .priv ∧
      s.traps (.cntr d 0x100) .priv ∧ s.traps (.cntw a 0x010) .priv) ∧
    (k.ps.pl ≠ .firm → s.traps (.csrr d 0x200) .priv ∧ s.traps (.csrr d 0x201) .priv ∧ s.traps (.csrw d a 0x200) .priv ∧
      s.traps (.csrw d a 0x201) .priv ∧ s.traps (.cntw a 0x100) .priv) ∧
    (n.toNat ∈ [0x010, 0x015, 0x020, 0x021, 0x022, 0x023, 0x024, 0x025, 0x026, 0x027, 0x028, 0x030] →
      s.traps (.csrw d a n) .illegal ∧ s.traps (.csrs d a n) .illegal ∧ s.traps (.csrc d a n) .illegal) ∧
    (n.toNat ≤ 2 → s.traps (.cntw a n) .illegal) ∧
    ((k.rs a).poison ≠ none → n.toNat ≤ 6 →
      s.traps (.csrw d a n) .poisonCtrl ∧ s.traps (.csrs d a n) .poisonCtrl ∧ s.traps (.csrc d a n) .poisonCtrl) ∧
    ((k.rs a).poison ≠ none → k.ps.pl = .firm → s.traps (.cntw a 0x010) .poisonCtrl))

/-- R203 to R207, R219: a write of control register n by CSRW, CSRS or CSRC gives s_d the old value and the register
the new one in the bits that it holds; every other control register stands. R213, R218: POISONCFG takes no STORE value
3, and a field of SCRUBCFG takes 0 and 10 to 40 alone. It says where these complete: CSRW, CSRS, CSRC. -/
def Obligations.ControlRegisterWrites : Prop :=
  (∀ (s : State) (d a : Reg) (n : Nat) (keep : Word) (level : Nat),
    let k := s.dev.blk
    let old := s.dev.csr n
    (n, keep, level) ∈ ([(0x000, BitVec.allOnes 64, 0), (0x001, 0x7FF, 0), (0x003, BitVec.allOnes 64, 0),
        (0x004, 0xFFFFFFFFFFFFFFFC, 0), (0x005, 0xFFFFFFFFFFFFFFFC, 0), (0x006, 0xFFFFFFFF, 0), (0x011, 0x7FFF, 0),
        (0x012, BitVec.allOnes 64, 0), (0x013, 0xFFFFFFFF, 0), (0x014, 0x3FFFFFFFF, 0), (0x100, 0xFFFFFFFFFFFFF01F, 1),
        (0x201, 0xFFFFFFFFFFFFF01F, 2)] : List (Nat × Word × Nat)) →
    k.plainS a → level ≤ k.ps.pl.code →
    let effect (v : Word) (t : State) : Prop :=
      t.dev.csr n = v &&& keep ∧ (d ≠ 0 → t.dev.blk.rs d = SReg.plain old) ∧
      (∀ r, r ≠ d → t.dev.blk.rs r = k.rs r) ∧ (∀ m, m ≠ n → t.dev.csr m = s.dev.csr m) ∧
      t.dev.blk.pc = k.pc + 4 ∧ s.sameMemory t
    s.answers (.csrw d a (BitVec.ofNat 12 n)) (effect (k.sv a)) ∧
    s.answers (.csrs d a (BitVec.ofNat 12 n)) (effect (old ||| k.sv a)) ∧
    s.answers (.csrc d a (BitVec.ofNat 12 n)) (effect (old &&& ~~~(k.sv a)))) ∧
  (∀ (s : State) (d a : Reg),
    let k := s.dev.blk
    let x := k.sv a
    k.plainS a →
    s.answers (.csrw d a 0x002) (fun t =>
      (t.dev.csr 0x002).extractLsb' 0 2 =
        (if x.extractLsb' 0 2 = 3 then k.csr.poisoncfg.extractLsb' 0 2 else x.extractLsb' 0 2) ∧
      (t.dev.csr 0x002).getLsbD 2 = x.getLsbD 2 ∧ (t.dev.csr 0x002).toNat < 8) ∧
    (k.ps.pl = .firm → s.answers (.csrw d a 0x200) fun t =>
      (∀ i, i < 5 → (t.dev.scrubcfg.extractLsb' (8 * i) 8) =
        (let v := x.extractLsb' (8 * i) 8
         if v.toNat = 0 ∨ (10 ≤ v.toNat ∧ v.toNat ≤ 40) then v else s.dev.scrubcfg.extractLsb' (8 * i) 8)) ∧
      t.dev.scrubcfg.toNat < 2 ^ 40))

/-- R372 to R378: what CNTR gives for the block's own counters, its core's and the device's, and what CNTW leaves: a counter of
a slice or stack that is fenced or absent reads 0 and ignores writes, of the CNTWs of one clock the last by core, then by age,
stands, and no event of that clock counts in a counter that was written. It says where these complete: CNTR, CNTW. -/
def Obligations.CounterResult : Prop :=
  ∀ (s : State) (d a : Reg) (n : BitVec 12) (i : Nat) (l : Launch),
    let k := s.dev.blk
    let c := s.dev.core k.place.core
    let gives (n : Nat) (v : Word) : Prop :=
      exec (.cntr d (BitVec.ofNat 12 n)) s = .next (s.setScalar true d (SReg.plain v))
    let gone : Prop :=
      0x200 ≤ n.toNat ∧ n.toNat ≤ 0x2FF ∧ s.dev.fw.slices.testBit (n.toNat - 0x200) = false ∨
      0x300 ≤ n.toNat ∧ n.toNat ≤ 0x317 ∧ (s.dev.stack (n.toNat - 0x300)).liveCount = 0 ∨
      0x320 ≤ n.toNat ∧ n.toNat ≤ 0x337 ∧ (s.dev.stack (n.toNat - 0x320)).liveCount = 0
    let outdone (owner m : Nat) : Prop := ∃ x ∈ s.dev.written, x.core = owner ∧ x.num = m ∧
      (k.place.core < x.by_ ∨ x.by_ = k.place.core ∧ k.lastIssue < x.age)
    let stays (t : State) : Prop := k.sameFiles t.dev.blk ∧ s.sameMemory t ∧ t.dev.blk.pc = k.pc + 4
    gives 0x000 (BitVec.ofNat 64 s.dev.clock) ∧
    (s.dev.launch k.id.key.lid = some l → gives 0x001 l.eleft ∧ gives 0x002 l.eused) ∧
    ((h : i < 8) → gives (0x010 + i) (c.pmc[i]) ∧ gives (0x018 + i) (c.pmsel[i])) ∧
    (k.ps.pl ≠ .user → (0x100 ≤ n.toNat ∧ n.toNat ≤ 0x105 ∨ 0x110 ≤ n.toNat ∧ n.toNat ≤ 0x16F ∧ n.toNat % 16 ≤ 6 ∨
        0x200 ≤ n.toNat ∧ n.toNat ≤ 0x2FF ∨ 0x300 ≤ n.toNat ∧ n.toNat ≤ 0x317 ∨ 0x320 ≤ n.toNat ∧ n.toNat ≤ 0x337) →
      (gone → gives n.toNat 0) ∧ (¬ gone → gives n.toNat (s.dev.counter n.toNat)) ∧
      (k.ps.pl = .firm → k.plainS a → s.answers (.cntw a n) fun t => stays t ∧
        (∀ m, m ≠ n.toNat → t.dev.counter m = s.dev.counter m) ∧
        (gone ∨ outdone Config.cores n.toNat → t.dev.counter n.toNat = s.dev.counter n.toNat) ∧
        (¬ gone → ¬ outdone Config.cores n.toNat → t.dev.counter n.toNat = k.sv a) ∧
        ∀ j, (t.dev.bump n.toNat j).counter n.toNat = t.dev.counter n.toNat)) ∧
    (k.ps.pl ≠ .user → k.plainS a → (h : i < 8) →
      s.answers (.cntw a (BitVec.ofNat 12 (0x018 + i))) fun t => stays t ∧
        (outdone k.place.core (0x018 + i) → (t.dev.core k.place.core).pmsel[i] = c.pmsel[i]) ∧
        (¬ outdone k.place.core (0x018 + i) → (t.dev.core k.place.core).pmsel[i] = k.sv a &&& 0x3FFFFF)) ∧
    (k.ps.pl ≠ .user → k.plainS a → (h : i < 8) →
      s.answers (.cntw a (BitVec.ofNat 12 (0x010 + i))) fun t => stays t ∧
        (outdone k.place.core (0x010 + i) → (t.dev.core k.place.core).pmc[i] = c.pmc[i]) ∧
        (¬ outdone k.place.core (0x010 + i) → (t.dev.core k.place.core).pmc[i] = k.sv a))

/-! ## Scalar memory -/

/-- R129, R130: a scalar load of a page that the core's unit holds gives s_d the little-endian value, extended as its form
says; beside that the access leaves its trace in the slices and in the counts of events alone (R233, R376). R195, R269: a
load from a line whose poison bit is set is poisoned and holds zero; where the context has no crumb log the origin is 0
without the merge flag. R130, R272, R279: in this order, a poisoned address, an address that is no multiple of the size
and a breach of rights trap, and nothing is performed. R130, R344, R345, R351: a scalar access to which the walk gives no
page sends one batch, keeps its address and changes no register; where no record of the block's function waits in the
device and its queue has a free slot, the block then waits on that batch. R349, R351: the walk gives none for an address
of 2^48 or above, nor where an entry on its way is not valid. It says where these complete: LDB, LDH, LDW, LDD, LDBZ,
LDHZ, LDWZ. -/
def Obligations.ScalarLoadResult : Prop :=
  (∀ (s : State) (d a b : Reg) (h : BitVec 1) (o : Os) (l : Leaf) (i : Instr) (n : Nat) (sx : Bool),
    let k := s.dev.blk
    let va := ((k.sv a).toNat + (k.sv b).toNat) % 2 ^ 64
    let pa := l.pa va
    let v := s.mem.number pa n
    (i, n, sx) ∈ scalarLoads d a b h o → k.plainS a → k.plainS b → va % n = 0 → s.dev.calm → s.sees k.scalarUnit va .read l →
    s.ownLine (lineOf pa) → (∀ e ∈ k.pend, o.kind ≠ .sc ∧ e.line ≠ lineOf pa) →
    s.answers i fun t => s.readOnly t ∧ t.dev.blk = (k.ws d (SReg.plain
      (if sx then (BitVec.ofNat (8 * n) v).signExtend 64 else BitVec.ofNat 64 v))).advance s.dev.clock (k.pc + 4)) ∧
  (∀ (s : State) (d a b : Reg) (h : BitVec 1) (o : Os) (l : Leaf) (i : Instr) (n : Nat) (sx : Bool),
    let k := s.dev.blk
    let va := ((k.sv a).toNat + (k.sv b).toNat) % 2 ^ 64
    let line := lineOf (l.pa va)
    (i, n, sx) ∈ scalarLoads d a b h o → d ≠ 0 → k.plainS a → k.plainS b → va % n = 0 → s.dev.calm → s.sees k.scalarUnit va .read l →
    (line + 1) * 128 ≤ 3 * 2 ^ 60 → metaState (s.tags.read line) = 0 → (s.tags.read line).getLsbD 15 = true →
    k.pend = [] →
    s.answers i fun t => (∃ c, t.dev.blk.rs d = SReg.bad c ∧
      ((s.dev.logBase k.id.ctx).extractLsb' 0 5 = 0 → c = { origin := 0, merged := false })) ∧
      (∀ r, r ≠ d → t.dev.blk.rs r = k.rs r) ∧ t.dev.blk.pc = k.pc + 4) ∧
  (∀ (s : State) (d a b : Reg) (h : BitVec 1) (o : Os) (l : Leaf) (p : BitVec 4) (w : BitVec 2),
    let k := s.dev.blk
    let va := ((k.sv a).toNat + (k.sv b).toNat) % 2 ^ 64
    let all : List (Instr × Nat) := (scalarLoads d a b h o).map (fun x => (x.1, x.2.1)) ++ scalarStores d a b h o
    ((k.rs a).poison ≠ none ∨ (k.rs b).poison ≠ none → ∀ x ∈ all, s.traps x.1 .poisonAddr) ∧
    (k.plainS a → k.plainS b → ∀ x ∈ all, va % x.2 ≠ 0 → s.traps x.1 .addrAlign) ∧
    (k.plainS a → k.plainS b → k.plainS d → k.waitsOn = none → va < 2 ^ 48 →
      (Work.start s).cached k.space va = some l →
      (l.allows k.ps.pl .read = false → ∀ x ∈ scalarLoads d a b h o, va % x.2.1 = 0 → s.traps x.1 .access) ∧
      (l.allows k.ps.pl .write = false → ∀ x ∈ scalarStores d a b h o, va % x.2 = 0 → s.traps x.1 .access)) ∧
    (k.plainS a → k.plainS b → (k.rs d).poison ≠ none → k.csr.poisoncfg.extractLsb' 0 2 = 0 →
      ∀ x ∈ scalarStores d a b h o, va % x.2 = 0 → s.traps x.1 .poisonStore) ∧
    ((k.rs a).poison ≠ none → s.traps (.amo d a b p w o) .poisonAddr) ∧
    (k.plainS a → (p.toNat = 9 → k.plainS d) → (k.sv a).toNat % (if w = 1 then 8 else 4) ≠ 0 →
      s.traps (.amo d a b p w o) .addrAlign)) ∧
  (∀ (s : State) (d a b : Reg) (h : BitVec 1) (o : Os) (i : Instr) (n : Nat),
    let k := s.dev.blk
    let va := ((k.sv a).toNat + (k.sv b).toNat) % 2 ^ 64
    (i, n) ∈ (scalarLoads d a b h o).map (fun x => (x.1, x.2.1)) ++ scalarStores d a b h o →
    let found := (Work.start s).translate k.space va
    let w := found.2
    k.plainS a → k.plainS b → k.plainS d → va % n = 0 → k.waitsOn = none → found.1 = .fault →
    s.answers i fun t =>
      t.dev.blk.pc = k.pc ∧ k.sameFiles t.dev.blk ∧ t.dev.blk.run = k.run ∧ t.dev.blk.pend = k.pend ∧
      (∀ q, w.dev.fq.held = [] → w.queueDesc (16 + k.id.fn) = some q →
        w.ownLe q.control 8 - w.le (q.control + 128) 8 < q.slots →
        ∃ x, t.dev.blk.batch = some x ∧ x.va = BitVec.ofNat 64 va ∧ x.pc = k.pc ∧ x.fetch = false)) ∧
  (∀ (w : Work) (sp : Space) (va fuel level table : Nat),
    let pa := w.redirect (table + 16 * levelIndex level va)
    (2 ^ 48 ≤ va → (w.translate sp va).1 = .fault) ∧
    (va < 2 ^ 48 → w.cached sp va = none → (w.walk sp va 4 0 sp.root).1 = .fault → (w.translate sp va).1 = .fault) ∧
    (w.cachedTable sp level va = none → (w.claim (lineOf pa) false).1 = true → w.dev.calm →
      (w.le pa 1) % 2 = 0 → (w.walk sp va (fuel + 1) level table).1 = .fault))

/-- R267, R271, R272: a plain scalar store to an ordinary page commits and queues its bytes in the scalar slice, with
memory as it was, behind a mark where it releases; a poisoned value under WRITE queues zeros that carry poison. Where
the partition's queue is full of other blocks' entries, the store waits (R321). R267, R271, R299: a plain scalar store
to a DEVICE, STRONG or host-shared page, with nothing older queued, is performed at its own step: its bytes hold the
value, and every other byte stays. It says where these complete: STB, STH, STW, STD. -/
def Obligations.ScalarStoreQueues : Prop :=
  (∀ (s : State) (d a b : Reg) (h : BitVec 1) (o : Os) (l : Leaf) (i : Instr) (n : Nat),
    let k := s.dev.blk
    let va := ((k.sv a).toNat + (k.sv b).toNat) % 2 ^ 64
    let pa := l.pa va
    let cells : List Host.Cell := (List.range n).map fun j => (pa + j, (k.sv d).extractLsb' (8 * j) 8)
    let e (p : Bool) : Pend := { slice := 16, line := pa / 128, kind := .bytes cells, poison := p,
                                 bypass := h == 1 || decide (k.csr.bypassth.toNat < n) }
    let release := o.kind = .rel ∨ o.kind = .acqrel ∨ o.kind = .sc
    (i, n) ∈ scalarStores d a b h o → k.plainS a → k.plainS b → va % n = 0 → s.dev.link.reqs = [] → s.sees k.scalarUnit va .write l →
    (k.plainS d → k.pend = [] → 0 < s.dev.queueRoom 16 → s.dev.queueRoom 16 ≤ s.dev.entriesOf 16 →
      exec i s = .next { s with dev := s.dev.held }) ∧
    (s.dev.entriesOf 16 < s.dev.queueRoom 16 →
    (k.plainS d → ¬ release →
      exec i s = .next (s.commit false { k with pend := k.pend ++ [e false] } (k.pc + 4))) ∧
    (k.plainS d → release → k.pend = [] →
      exec i s = .next (s.commit false { k with pend := [e false] } (k.pc + 4))) ∧
    (k.plainS d → release → k.pend ≠ [] →
      exec i s = .next (s.commit false { k with pend := k.pend ++
        [{ slice := 17, line := 0, kind := .mark true, poison := false, bypass := false }, e false] } (k.pc + 4))) ∧
    ((k.rs d).poison ≠ none → (k.sv d) = 0 → k.csr.poisoncfg.extractLsb' 0 2 = 1 → ¬ release →
      exec i s = .next (s.commit false { k with pend := k.pend ++ [e true] } (k.pc + 4))))) ∧
  (∀ (s : State) (d a b : Reg) (h : BitVec 1) (o : Os) (l : Leaf) (i : Instr) (n : Nat),
    let k := s.dev.blk
    let va := ((k.sv a).toNat + (k.sv b).toNat) % 2 ^ 64
    let pa := l.pa va
    (i, n) ∈ scalarStores d a b h o → k.plainS a → k.plainS b → k.plainS d → va % n = 0 → s.dev.calm →
    va < 2 ^ 48 → (Work.start s).cached k.space va = some l → l.allows k.ps.pl .write = true → l.inOrder = true →
    65536 ∣ l.base → 65536 ∣ l.size → k.waitsOn = none → s.freeLine (lineOf pa) → k.pend = [] →
    s.answers i fun t =>
      t.mem.number pa n = (k.sv d).toNat % 2 ^ (8 * n) ∧ s.onlyBytes t pa n ∧ t.dev.blk.pend = [] ∧
      k.sameFiles t.dev.blk ∧ t.dev.blk.pc = k.pc + 4)

/-- R267, R269, R294: performing the oldest write of a slice puts its bytes in memory and nothing else, and takes it
from the queue; older writes of other slices and other lines do not hold it back. A write that carries poison sets its
line's poison bit, and one of all 128 bytes that carries none clears it. R267, R294, R297: a write waits for older
writes of its line, and behind a join or release that has older writes before it; without a write of the slice nothing
is performed. It says where these complete: WRITE_PERFORMED. -/
def Obligations.WritePerformedResult : Prop :=
  (∀ (s : State) (pre : List Pend) (e : Pend) (rest : List Pend) (bs : List Host.Cell),
    let k := s.dev.blk
    k.pend = pre ++ e :: rest → (∀ x ∈ pre, x.slice ≠ e.slice ∧ x.line ≠ e.line ∧ ∀ r, x.kind ≠ .mark r) →
    e.kind = .bytes bs → (∀ c ∈ bs, lineOf c.1 = e.line) → (bs.map (·.1)).Nodup → s.dev.calm →
    (e.line + 1) * 128 ≤ 3 * 2 ^ 60 → metaState (s.tags.read e.line) = 0 → (Work.start s).hostFree e.line = true →
    s.answers (.writePerformed k.id.key e.slice) fun t =>
      (∀ c ∈ bs, t.mem.read c.1 = c.2) ∧ (∀ a, (∀ c ∈ bs, c.1 ≠ a) → t.mem.read a = s.mem.read a) ∧
      (t.tags.read e.line).getLsbD 15 =
        (e.poison || ((s.tags.read e.line).getLsbD 15 && bs.length != 128)) ∧
      (∀ l, l ≠ e.line → t.tags.read l = s.tags.read l) ∧
      t.dev.blk.pend = pre ++ rest ∧ k.sameFiles t.dev.blk ∧ t.dev.blk.pc = k.pc) ∧
  (∀ (s : State) (pre : List Pend) (e : Pend) (rest : List Pend) (n : Nat),
    let k := s.dev.blk
    let mark (x : Pend) : Prop := ∃ r, x.kind = .mark r
    ((∀ x ∈ k.pend, x.slice ≠ n ∧ ¬ mark x) → exec (.writePerformed k.id.key n) s = .next s) ∧
    (k.pend = pre ++ e :: rest → (∀ x ∈ pre, x.slice ≠ n ∧ ¬ mark x) →
      (e.slice = n ∧ (∃ x ∈ pre, x.line = e.line) ∨ mark e ∧ pre ≠ []) → exec (.writePerformed k.id.key n) s = .next s))

/-- R279, R281: an atomic on a word of this device's memory gives s_d the old value, extended as its form says, and
leaves the new one there and every other byte as it was; a CAS that does not match writes nothing. R93, R279: the
floating add of AMO rounds the exact sum to nearest in FP32 or FP64; a NaN is the canonical one. R102: a NaN that it makes of
operands that are none is poison under GENNAN, with origin 0 where the context has no crumb log. It says where these
complete: AMO. -/
def Obligations.AmoResult : Prop :=
  (∀ (s : State) (d a b : Reg) (p : BitVec 4) (w : BitVec 2) (o : Os) (l : Leaf),
    let k := s.dev.blk
    let wide := w = 1
    let n := if wide then 64 else 32
    let va := (k.sv a).toNat
    let pa := l.pa va
    let old := s.mem.number pa (n / 8)
    let v := (k.sv b).toNat % 2 ^ n
    let e := (k.sv d).toNat % 2 ^ n
    let int (x : Nat) : Int := (BitVec.ofNat n x).toInt
    let new : Nat :=
      match p.toNat with
      | 0 => (old + v) % 2 ^ n
      | 1 => old &&& v
      | 2 => old ||| v
      | 3 => old ^^^ v
      | 4 => if int v < int old then v else old
      | 5 => if int old < int v then v else old
      | 6 => min old v
      | 7 => max old v
      | 8 => v
      | _ => if old = e then v else old
    p.toNat ≤ 9 → k.plainS a → k.plainS b → (p.toNat = 9 → k.plainS d) → va % (n / 8) = 0 → s.dev.calm →
    s.sees k.scalarUnit va .atomic l → s.freeLine (lineOf pa) → k.pend = [] →
    s.answers (.amo d a b p w o) fun t =>
      t.mem.number pa (n / 8) = new ∧ s.onlyBytes t pa (n / 8) ∧
      (d ≠ 0 → t.dev.blk.rs d = SReg.plain (if wide ∨ p.toNat = 6 ∨ p.toNat = 7 then BitVec.ofNat 64 old
        else (BitVec.ofNat 32 old).signExtend 64)) ∧
      (∀ r, r ≠ d → t.dev.blk.rs r = k.rs r) ∧ t.dev.blk.pc = k.pc + 4 ∧ t.dev.blk.pend = []) ∧
  (∀ (s : State) (d a b : Reg) (w : BitVec 2) (o : Os) (l : Leaf),
    let k := s.dev.blk
    let f := if w = 1 then Fmt.double else Fmt.single
    let n := if w = 1 then 64 else 32
    let va := (k.sv a).toNat
    let pa := l.pa va
    let old := s.mem.number pa (n / 8)
    let v := (k.sv b).toNat % 2 ^ n
    let nan (p : Nat) : Prop := f.value p = .nan
    let sum := f.pack .rne (Machine.Num.add .rne (f.value old) (f.value v))
    k.plainS a → k.plainS b → va % (n / 8) = 0 → s.dev.calm → s.sees k.scalarUnit va .atomic l →
    s.freeLine (lineOf pa) → k.pend = [] →
    (k.noGen ∨ nan old ∨ nan v ∨ ¬ nan sum → s.answers (.amo d a b 10 w o) fun t =>
      t.mem.number pa (n / 8) = sum % 2 ^ n ∧ s.onlyBytes t pa (n / 8) ∧
      (d ≠ 0 → t.dev.blk.rs d = SReg.plain (BitVec.ofNat 64 old))) ∧
    (¬ k.noGen → ¬ nan old → ¬ nan v → nan sum → (s.dev.logBase k.id.ctx).extractLsb' 0 5 = 0 →
      s.answers (.amo d a b 10 w o) fun t =>
        t.mem.number pa (n / 8) = f.longPoison { origin := 0, merged := false } ∧ s.onlyBytes t pa (n / 8) ∧
        (t.tags.read (lineOf pa)).getLsbD 15 = true ∧ (d ≠ 0 → t.dev.blk.rs d = SReg.plain (BitVec.ofNat 64 old))))

/-! ## Shapes -/

/-- R139, R141, R146: SHAPEQ completes on every valid descriptor: it gives what SHAPE would grant, by the widths of the
tags, and changes nothing else; a poisoned operand, a request that names no share and an invalid descriptor trap, in SHAPE
likewise. R147: negotiation narrows or keeps at once, under the cap of R215; it widens to the widest share not above the
request whose lanes no other block holds and no fenced lane group lies in, and keeps the share where there is none; a
block keeps its first lane as it narrows, and one of 128 lanes goes to the lowest partition without a fenced group. It
says where these complete: SHAPEQ. -/
def Obligations.ShapeNegotiation : Prop :=
  (∀ (s : State) (d a b : Reg) (h : RecNo),
    let k := s.dev.blk
    let desc := k.sv b
    let req := (k.sv a).toNat
    let code := desc.toNat % 32
    let lanes := s.dev.negotiate req
    let eff := if k.ps.marble then lanes / 2 else lanes
    let width := ([1, 64, 32, 16, 16, 8, 8, 6, 6, 4, 4, 4, 8, 8, 16, 16, 32, 32] : List Nat).getD code 1
    let g := if code = 7 ∨ code = 8 then 4 * (128 * eff / 24) else 128 * eff / width
    let cols := desc.toNat / 2 ^ 19 % 2 ^ 16
    let valid : Prop := desc.toNat / 2 ^ 7 % 2 = 0 ∧ desc.toNat / 2 ^ 35 = 0 ∧ 1 ≤ code ∧ code ≤ 17 ∧
      desc.toNat / 2 ^ 8 % 2 ^ 11 ≤ 1535 ∧ (desc.toNat / 2 ^ 5 % 2 = 1 ↔ cols = 0)
    ((k.rs a).poison ≠ none ∨ (k.rs b).poison ≠ none →
      s.traps (.shapeq d a b) .poisonShape ∧ s.traps (.shape d a b h) .poisonShape) ∧
    (k.plainS a → k.plainS b → req ∉ [0, 4, 8, 16, 32, 128] ∨ ¬ valid →
      s.traps (.shapeq d a b) .shapeDesc ∧ s.traps (.shape d a b h) .shapeDesc) ∧
    (k.plainS a → k.plainS b → req ∈ [0, 4, 8, 16, 32, 128] → valid →
      exec (.shapeq d a b) s = .next (s.setScalar true d (SReg.plain (BitVec.ofNat 64 g))))) ∧
  (∀ (d : Dev) (req : Nat),
    let p := d.blk.place
    let cap := (d.core p.core).shareCap
    let want := min (if req = 0 then p.share else req) cap
    let l := d.negotiate req
    let others (b : Block) : Prop :=
      b ∈ d.blocks ∧ b.resident = true ∧ b.id.key ≠ d.blk.id.key ∧ b.place.core = p.core
    let free (c : Nat) : Prop :=
      let start := p.lane / c * c
      (if p.width = 4096 then c ≤ 32 else c = 128 → ∀ b, ¬ others b) ∧
      (∀ b, others b → b.place.lane + b.place.share ≤ start ∨ start + c ≤ b.place.lane) ∧
      ∀ g, g < 16 → (d.core p.core).fenced.getLsbD g = true → 8 * g + 8 ≤ start ∨ start + c ≤ 8 * g
    req ∈ [0, 4, 8, 16, 32, 128] →
      (want ≤ p.share → l = want) ∧
      (p.share < want →
        (∀ c ∈ [4, 8, 16, 32, 128], p.share < c → c ≤ want → free c → c ≤ l) ∧
        (l = p.share ∨ l ∈ [4, 8, 16, 32, 128] ∧ p.share < l ∧ l ≤ want ∧ free l)) ∧
      (p.share < l → l < 128 → (d.moved p l).lane = p.lane / l * l ∧ (d.moved p l).part = p.part) ∧
      (l < p.share → p.share ≤ 32 → l ∣ p.share → p.share ∣ p.lane → (d.moved p l).lane = p.lane) ∧
      (l < p.share → p.share = 128 → ∀ q, q < 4 →
        (∀ g, g < 4 → (d.core p.core).fenced.getLsbD (4 * q + g) = false) →
        (∀ r, r < q → ∃ g, g < 4 ∧ (d.core p.core).fenced.getLsbD (4 * r + g) = true) →
        (d.moved p l).part = q ∧ (d.moved p l).lane = 32 * q))

/-- R146, R149: SHAPE writes the record, with the grant as its columns in GRANT mode, gives s_d the grant, takes the
share and marks the records that no longer fit; tiles of other records, the other registers and memory outside the
mirror stand; each tile bound to it has its version laid again from the old record to the one written. R148: a version
whose record keeps its tag and columns keeps its plain elements in the rows that both shapes have, and rows that nothing
kept read as zero; under another column count it keeps the elements that both shapes have, every other one is zero, and the
blocks of a narrow tag are chosen afresh; another tag empties it. R145: TBIND binds and empties, and traps
on a record without a tag; TFREE unbinds, and does nothing to an unbound tile; an empty tile reads as zero in every
element. It says where these complete: SHAPE, TBIND, TFREE. -/
def Obligations.ShapeResult : Prop :=
  (∀ (s : State) (d a b : Reg) (h : RecNo),
    let k := s.dev.blk
    let desc := k.sv b
    let req := (k.sv a).toNat
    let lanes := s.dev.negotiate req
    let g := k.grantOf desc lanes
    let written : ShapeRec :=
      { code := desc.extractLsb' 0 5, grant := desc.getLsbD 5, dead := desc.getLsbD 6, stale := false,
        rowsM1 := desc.extractLsb' 8 11,
        cols := if desc.getLsbD 5 then BitVec.ofNat 16 g else desc.extractLsb' 19 16 }
    k.plainS a → k.plainS b → req ∈ [0, 4, 8, 16, 32, 128] → descriptorOk desc = true →
    k.fits (k.relayCost h (recordOf desc g)) = true → s.dev.unc.upsets = [] →
    s.answers (.shape d a b h) fun t =>
      t.dev.blk.h[h.toNat] = written ∧
      (∀ x : RecNo, x ≠ h →
        let r := k.h[x.toNat]
        t.dev.blk.h[x.toNat] =
          (if lanes ≠ k.place.share ∧ r.grant = true ∧ r.code ≠ 0 ∧ r.tag.grant (k.effOf lanes) < r.cols.toNat
           then { r with stale := true } else r)) ∧
      t.dev.blk.place = s.dev.moved k.place lanes ∧ t.dev.blk.place.share = lanes ∧ (d ≠ 0 → t.dev.blk.rs d = SReg.plain (BitVec.ofNat 64 g)) ∧
      (∀ r, r ≠ d → t.dev.blk.rs r = k.rs r) ∧
      (∀ x : TileNo, (k.tile x).bound ≠ some h → t.dev.blk.tile x = k.tile x) ∧
      (∀ x : TileNo, (k.tile x).bound = some h →
        t.dev.blk.tile x = { k.tile x with ver := (k.tile x).ver.relay k.h[h.toNat] written }) ∧
      t.dev.blk.m = k.m ∧ t.dev.blk.p = k.p ∧ t.dev.blk.acc = k.acc ∧ t.dev.blk.pc = k.pc + 4 ∧
      (s.dev.direct → s.outside t (s.dev.inMirror k.place.core))) ∧
  (∀ (v : Tile) (old r : ShapeRec),
    (old.code ≠ r.code → v.relay old r = Tile.none) ∧
    (old.code = r.code → v.empty = true → v.relay old r = v) ∧
    (old.code = r.code → old.cols = r.cols → v.empty = false → v.tag = r.tag → v.rows = old.rows → v.cols = old.ncols →
      v.kept = 0 → v.elems.length = v.rows * v.cols → (∀ e ∈ v.elems, ∃ n, e = .bits n) →
      let t := v.relay old r
      t.empty = false ∧ t.rows = r.rows ∧ t.cols = v.cols ∧
      (∀ e, e < min v.rows r.rows * v.cols → t.elems[e]? = v.elems[e]?) ∧
      (∀ e, v.rows * v.cols ≤ e → e < r.rows * v.cols → t.elems[e]? = some (.bits 0))) ∧
    (old.code = r.code → old.cols ≠ r.cols → v.empty = false → v.tag = r.tag → v.rows = old.rows → v.cols = old.ncols →
      v.elems.length = v.rows * v.cols →
      let t := v.relay old r
      let kept (e : Nat) : Option Nat :=
        if e / r.ncols < old.rows ∧ e % r.ncols < old.ncols then some (e / r.ncols * old.ncols + e % r.ncols) else none
      t.empty = false ∧ t.tag = r.tag ∧ t.rows = r.rows ∧ t.cols = r.ncols ∧ t.kept = 0 ∧
      (r.tag.narrow = false → (∀ e ∈ v.elems, ∃ n, e = .bits n) → ∀ e, e < r.size →
        t.elems[e]? = match kept e with
          | some x => v.elems[x]?
          | none => some (.bits 0)) ∧
      (r.tag.narrow = true →
        let res (e : Nat) : Val := match kept e with
          | some x => ((v.vals old)[x]?).getD (.num .nan)
          | none => .num (.zero false)
        t.holdsMx r.tag r.ncols r.size res (fun _ => .rne) (r.tag.blockScale r.ncols res)))) ∧
  (∀ (s : State) (d : TileNo) (h : RecNo) (r : ShapeRec),
    let k := s.dev.blk
    (k.h[h.toNat].code ≠ 0 → exec (.tbind d h) s =
      .next (s.commit true (k.setTile d { k.tile d with bound := some h, ver := Tile.none }) (k.pc + 4))) ∧
    (k.h[h.toNat].code = 0 → s.traps (.tbind d h) .typeState) ∧
    ((k.tile d).bound ≠ none → exec (.tfree d) s = .next (s.commit true (k.setTile d TileReg.reset) (k.pc + 4))) ∧
    ((k.tile d).bound = none → exec (.tfree d) s = .next (s.goOn true)) ∧
    Tile.none.elements r = List.replicate (r.rows * r.ncols) (.bits 0) ∧
    (∀ x ∈ Tile.none.vals r, x.poison = none))

/-! ## Tiles -/

/-- R110, R153, R154: integer tiles of one tag: the exact result wrapped, or saturated under rm 1, element by element;
elements that the mask leaves out keep their value. It says where these complete: TADD, TSUB, TMUL, TFMA, TFMS, TMIN,
TMAX, TAND, TOR, TXOR, TSHL, TSHR, TABS, TNEG. -/
def Obligations.IntegerTileResult : Prop :=
  ∀ (s : State) (d a b : TileNo) (m : MaskField) (r : Rm) (rd ra rb : ShapeRec),
    let k := s.dev.blk
    let t := rd.tag
    let x := k.integer a ra
    let y := k.integer b rb
    let z := k.integer d rd
    let p (e : Nat) := k.pattern a ra e
    let q (e : Nat) := k.pattern b rb e
    let n (e : Nat) := q e % 2 ^ t.width
    let put := t.put (r = 1)
    let gives (i : Instr) (f : Nat → Nat) : Prop := s.writesElems i d rd m f
    t.isInt = true → ra.tag = t → rb.tag = t → k.names d rd → k.names a ra → k.names b rb →
    ra.rows = rd.rows → ra.ncols = rd.ncols → rb.rows = rd.rows → rb.ncols = rd.ncols → k.room rd → k.plainM m →
    r.toNat ≤ 1 → k.sound a ra → k.sound b rb → k.sound d rd →
    gives (.tadd d a b m r) (fun e => put (x e + y e)) ∧
    gives (.tsub d a b m r) (fun e => put (x e - y e)) ∧
    gives (.tmul d a b m r) (fun e => put (x e * y e)) ∧
    gives (.tfma d a b m r) (fun e => put (x e * y e + z e)) ∧
    gives (.tfms d a b m r) (fun e => put (x e * y e - z e)) ∧
    gives (.tmin d a b m r) (fun e => put (min (x e) (y e))) ∧
    gives (.tmax d a b m r) (fun e => put (max (x e) (y e))) ∧
    gives (.tand d a b m r) (fun e => (p e &&& q e) % 2 ^ t.width) ∧
    gives (.tor d a b m r) (fun e => (p e ||| q e) % 2 ^ t.width) ∧
    gives (.txor d a b m r) (fun e => (p e ^^^ q e) % 2 ^ t.width) ∧
    gives (.tshl d a b m r) (fun e => put (x e * 2 ^ n e)) ∧
    gives (.tshr d a b m r) (fun e => put (x e / 2 ^ n e)) ∧
    gives (.tabs d a m r) (fun e => put (x e).natAbs) ∧
    gives (.tneg d a m r) (fun e => put (-(x e)))

/-- R93, R94, R104, R110, R153, R154: a floating destination that is not narrow takes the exact result on the promoted
values, rounded into the promoted type and narrowed into its own; the functions of R94 need floating tags. R53, R60,
R61, R108, R109, R152: every elementwise instruction completes on every pair of tags that its class and the promotion
table allow, MX tags with them; under a poisoned mask every element takes the mask's poison (R101). It says where
these complete: TADD, TSUB, TMUL, TFMA, TFMS, TMIN, TMAX, TABS, TNEG, TRCP, TRSQ, TEXP, TLOG, TTANH. -/
def Obligations.FloatTileResult : Prop :=
  (∀ (s : State) (d a b : TileNo) (m : MaskField) (r : Rm) (rd ra rb : ShapeRec) (p2 p3 p1 : Tag),
    let k := s.dev.blk
    let f := rd.tag.fmt
    let g := Round.ofCode r.toNat
    let out (p : Tag) (x : Machine.Num) : Nat := f.pack g (p.fmt.round g x)
    let gives (i : Instr) (f : Nat → Nat) : Prop := s.writesElems i d rd m f
    rd.tag.isFloat = true → rd.tag.narrow = false → k.names d rd → k.names a ra → k.names b rb →
    ra.rows = rd.rows → ra.ncols = rd.ncols → rb.rows = rd.rows → rb.ncols = rd.ncols → k.room rd → k.plainM m →
    k.noGen → k.sound a ra → k.sound b rb → k.sound d rd →
    (promote [ra.tag, rb.tag] = some p2 → p2.isFloat = true →
      let x := k.number a ra p2
      let y := k.number b rb p2
      gives (.tadd d a b m r) (fun e => out p2 (Machine.Num.add g (x e) (y e))) ∧
      gives (.tsub d a b m r) (fun e => out p2 (Machine.Num.add g (x e) (y e).neg)) ∧
      gives (.tmul d a b m r) (fun e => out p2 ((x e).mul (y e))) ∧
      gives (.tmin d a b m r) (fun e => out p2 ((x e).min (y e))) ∧
      gives (.tmax d a b m r) (fun e => out p2 ((x e).max (y e)))) ∧
    (promote [ra.tag, rb.tag, rd.tag] = some p3 → p3.isFloat = true →
      let x := k.number a ra p3
      let y := k.number b rb p3
      let z := k.number d rd p3
      gives (.tfma d a b m r) (fun e => out p3 (Machine.Num.add g ((x e).mul (y e)) (z e))) ∧
      gives (.tfms d a b m r) (fun e => out p3 (Machine.Num.add g ((x e).mul (y e)) (z e).neg))) ∧
    (promote [ra.tag] = some p1 → p1.isFloat = true →
      let x := k.number a ra p1
      gives (.tabs d a m r) (fun e => out p1 (x e).abs) ∧
      gives (.tneg d a m r) (fun e => out p1 (x e).neg) ∧
      (ra.tag.isFloat = true → ra.tag.narrow = false →
        gives (.trcp d a m r) (fun e => out p1 (x e).recip) ∧
        gives (.trsq d a m r) (fun e => out p1 (x e).rsqrt) ∧
        gives (.texp d a m r) (fun e => out p1 (x e).exp) ∧
        gives (.tlog d a m r) (fun e => out p1 (x e).ln) ∧
        gives (.ttanh d a m r) (fun e => out p1 (x e).tanh)))) ∧
  (∀ (s : State) (d a b : TileNo) (m : MaskField) (r : Rm) (rd : ShapeRec) (i : Instr) (ts : List TileNo)
    (ok : Tag → Bool) (recs : TileNo → ShapeRec) (p : Tag),
    let k := s.dev.blk
    (i, ts, ok) ∈ elementInstrs d a b m r → k.names d rd → ok rd.tag = true → k.room rd → k.noGen →
    (∀ t ∈ ts, k.names t (recs t) ∧ ok (recs t).tag = true ∧ (recs t).rows = rd.rows ∧ (recs t).ncols = rd.ncols) →
    promote (ts.map fun t => (recs t).tag) = some p → (p.isFloat = true → rd.tag.isInt = false) →
    (rd.tag.isInt = true → r.toNat ≤ 1) →
    s.writesTile i d rd fun v =>
      (∀ c, (k.rm_ m).poison = some c → ∀ e, e < rd.size → v.elems[e]? = some (.poison c)) ∧
      (k.plainM m → rd.tag.narrow = false → k.sound d rd → (∀ t ∈ ts, k.sound t (recs t)) →
        ∀ e, e < rd.size → (k.rm_ m).bit e = false → v.elems[e]? = some (.bits (k.pattern d rd e))))

/-- R100, R101: a selected element of FP64 or FP32 whose sources hold poison is the merge of it; other elements are
sound. R102, R213, R359: with GENNAN set and a crumb log, an element that turns NaN from operands that are not takes
poison with the next entry's origin, and the log's next index goes up by one; other bytes of memory stay. R53, R61,
R108, R149, R152: what an elementwise instruction traps with, in this order: a tile without a record, tags that it
does not take, a STALE record, shapes that differ, a version that finds no rows; that a class which R61 refuses is refused for
the destination's tag too is the model's reading (log entry 77). It says where these complete: TADD. -/
def Obligations.ElementwisePoisonAndTraps : Prop :=
  (∀ (s : State) (d a b : TileNo) (m : MaskField) (r : Rm) (rd ra rb : ShapeRec) (p : Tag) (i : Instr),
    let k := s.dev.blk
    let c (t : TileNo) (q : ShapeRec) (e : Nat) : Option Crumb := (((k.tile t).ver.elements q)[e]?).bind Elem.crumb
    i ∈ [Instr.tadd d a b m r, .tsub d a b m r, .tmul d a b m r, .tmin d a b m r, .tmax d a b m r] →
    rd.tag = .fp64 ∨ rd.tag = .fp32 → k.names d rd → k.names a ra → k.names b rb →
    ra.rows = rd.rows → ra.ncols = rd.ncols → rb.rows = rd.rows → rb.ncols = rd.ncols → k.room rd → k.plainM m →
    k.noGen → promote [ra.tag, rb.tag] = some p → p.isFloat = true →
    s.writesTile i d rd fun v => ∀ e, e < rd.size → (k.rm_ m).bit e = true →
      ∃ x, v.elems[e]? = some x ∧ x.crumb = mergePoison (c a ra e) (c b rb e)) ∧
  (∀ (s : State) (d a b : TileNo) (rd ra rb : ShapeRec) (e : Nat),
    let k := s.dev.blk
    let lb := s.dev.logBase k.id.ctx
    let n := lb.toNat % 32
    let base := lb.toNat / 4096 * 4096
    let next := s.mem.number base 4
    let seq := s.mem.number (base + 8) 4
    rd.tag = .fp32 → ra.tag = .fp32 → rb.tag = .fp32 → k.names d rd → k.names a ra → k.names b rb →
    ra.rows = rd.rows → ra.ncols = rd.ncols → rb.rows = rd.rows → rb.ncols = rd.ncols → k.room rd →
    k.sound a ra → k.sound b rb → k.csr.poisoncfg.getLsbD 2 = true → 7 ≤ n → n ≤ 20 → base < 2 * 2 ^ 60 →
    1 ≤ next → next < 2 ^ n - 1 → seq + 1 < 2 ^ 32 → e < rd.size → s.dev.calm →
    (∀ x, s.dev.inCrumbLog x → (Work.start s).inWindow (lineOf x) = false) →
    k.number a ra .fp32 e = .inf false → k.number b rb .fp32 e = .inf true →
    s.answers (.tadd d a b 0 0) fun t =>
      (t.dev.blk.tile d).ver.elems[e]? = some (.poison { origin := BitVec.ofNat 20 next, merged := false }) ∧
      t.mem.number base 4 = next + 1 ∧ t.mem.number (base + 8) 4 = seq + 1 ∧
      t.mem.number (base + 32 * next) 1 = 5 + 16 ∧
      ∀ x, ¬ s.dev.inCrumbLog x → t.mem.read x = s.mem.read x) ∧
  (∀ (s : State) (d a b : TileNo) (m : MaskField) (r : Rm) (i : Instr) (ts : List TileNo) (ok : Tag → Bool)
    (rd : ShapeRec) (recs : TileNo → ShapeRec),
    let k := s.dev.blk
    let tags := ts.map fun t => (recs t).tag
    let fine : Prop := ok rd.tag = true ∧ (∀ t ∈ tags, ok t = true) ∧ (rd.tag.isInt = true → r.toNat ≤ 1) ∧
      ∃ p, promote tags = some p ∧ (p.isFloat = true → rd.tag.isInt = false)
    let fresh : Prop := rd.stale = false ∧ ∀ t ∈ ts, (recs t).stale = false
    let same : Prop := ∀ t ∈ ts, (recs t).rows = rd.rows ∧ (recs t).ncols = rd.ncols
    (i, ts, ok) ∈ elementInstrs d a b m r →
    (k.recOf d = none ∨ (∃ t ∈ ts, k.recOf t = none) → s.traps i .tileUnbound) ∧
    (k.recOf d = some rd → (∀ t ∈ ts, k.recOf t = some (recs t)) →
      (¬ fine → s.traps i .typeState) ∧
      (fine → ¬ fresh → s.traps i .shapeStale) ∧
      (fine → fresh → ¬ same → s.traps i .shapeMismatch) ∧
      (fine → fresh → same → ¬ k.room rd → s.traps i .tileSpace)))

/-- R69, R93, R153: TCMP writes the mask of the comparison; bits that the mask leaves out stay, and a poisoned prior
mask's poison with them (R101); TSEL chooses by its mask. It says where these complete: TCMP, TSEL. -/
def Obligations.CompareSelectResult : Prop :=
  ∀ (s : State) (d : MaskField) (m : MaskField) (c : BitVec 3) (t a b : TileNo) (r : Rm) (rt ra rb : ShapeRec) (p : Tag),
    let k := s.dev.blk
    k.names a ra → k.names b rb → ra.rows = rb.rows → ra.ncols = rb.ncols → k.plainM m → k.sound a ra → k.sound b rb →
    promote [ra.tag, rb.tag] = some p → k.fits (ceilDiv ra.size k.place.width) = true →
    let cmp (f : Nat → Prop) : Prop :=
      ∃ v : MaskReg, exec (.tcmp d a b m c) s = .next (s.setMask d v) ∧ v.n = ra.size ∧ v.fill = false ∧
        v.poison = (if ((k.rm_ m).select ra.size).all id then none else (k.rm_ d).poison) ∧
        ∀ e, e < ra.size → ((k.rm_ m).bit e = true → (v.bit e = true ↔ f e)) ∧
          ((k.rm_ m).bit e = false → v.bit e = (k.rm_ d).bit e)
    (p.isInt = true → c.toNat ≤ 5 →
      let x := k.integer a ra
      let y := k.integer b rb
      cmp fun e => match c.toNat with
        | 0 => x e = y e
        | 1 => x e ≠ y e
        | 2 => x e < y e
        | 3 => x e ≤ y e
        | 4 => y e < x e
        | _ => y e ≤ x e) ∧
    (p.isInt = true → 6 ≤ c.toNat → s.traps (.tcmp d a b m c) .typeState) ∧
    (p.isFloat = true →
      let x := k.number a ra p
      let y := k.number b rb p
      cmp fun e =>
        let un := (x e).isNan = true ∨ (y e).isNan = true
        let o := (x e).compare (y e)
        match c.toNat with
        | 0 => ¬ un ∧ o = 0
        | 1 => un ∨ o ≠ 0
        | 2 => ¬ un ∧ o < 0
        | 3 => ¬ un ∧ o ≤ 0
        | 4 => ¬ un ∧ 0 < o
        | 5 => ¬ un ∧ 0 ≤ o
        | 6 => un
        | _ => ¬ un) ∧
    (k.names t rt → rt.rows = ra.rows → rt.ncols = ra.ncols → k.room rt → k.noGen → rt.tag.narrow = false →
      (rt.tag.isInt = true → ra.tag = rt.tag → rb.tag = rt.tag → r.toNat ≤ 1 → s.writesTile (.tsel t a b m r) t rt fun v =>
        ∀ e, e < rt.size → v.elems[e]? =
          some (.bits (if (k.rm_ m).bit e then k.pattern a ra e % 2 ^ rt.tag.width else k.pattern b rb e % 2 ^ rt.tag.width))) ∧
      (rt.tag.isFloat = true → p.isFloat = true → s.writesTile (.tsel t a b m r) t rt fun v =>
        ∀ e, e < rt.size → v.elems[e]? =
          some (.bits (rt.tag.fmt.pack (Round.ofCode r.toNat) (p.fmt.round (Round.ofCode r.toNat)
            (if (k.rm_ m).bit e then k.number a ra p e else k.number b rb p e))))))

/-- R60, R92, R106, R155: TCVT, TQNT and TDQ round each element in the word's mode, or by its own random bits under
SR, and narrow it into d's tag; a tag that they do not take traps. R90, R98, R155: into a narrow tag, a block with poison
among its results is poison under pmerge, one with a NaN or an infinity is a NaN block, and any other has the scale of its
largest magnitude and its elements rounded under that scale, saturated; TQNT takes one scale for each row. R92, R109: an
integer tag takes a number rounded in the mode given and cut or wrapped to its width; a plain NaN gives 0 and an infinity the
end of the range; an integer wraps or is cut. R90, R98: one block of results of any instruction in an MX destination. It says
where these complete: TCVT, TQNT, TDQ. -/
def Obligations.ConversionResult : Prop :=
  (∀ (s : State) (d a : TileNo) (b : Reg) (m : MaskField) (sat : BitVec 1) (r : Rm) (rd ra : ShapeRec),
    let k := s.dev.blk
    let stream := k.sv b
    let mode (e : Nat) : Round :=
      if r.toNat = 5 then .sr (srBits k.csr.srseed.toNat (stream.toNat / 2 ^ 48) ((stream.toNat + e) % 2 ^ 48))
      else Round.ofCode r.toNat
    let source (e : Nat) : Val := ((k.vals a ra)[e]?).getD (.num .nan)
    let result (f : Nat → Val) (e : Nat) : Val :=
      if (k.rm_ m).bit e then f e else ((k.vals d rd)[e]?).getD (.num .nan)
    let rounded (e : Nat) : Val := if ra.tag.narrow then (source e).promoteTo ra.tag .fp32 else source e
    k.names d rd → k.names a ra → ra.rows = rd.rows → ra.ncols = rd.ncols → k.room rd → k.plainM m → k.noGen →
    (r.toNat = 5 → k.plainS b) →
    (r.toNat ≤ 5 → rd.tag.narrow = false → k.sound a ra → k.sound d rd →
      (s.writesTile (.tcvt d a b m sat r) d rd fun v => ∀ e, e < rd.size →
        v.elems[e]? = some (if (k.rm_ m).bit e then rd.tag.packVal (mode e) (sat = 1) (source e)
          else .bits (k.pattern d rd e))) ∧
      (ra.tag.narrow = true →
        s.writesTile (.tdq d a b m sat r) d rd fun v => ∀ e x, e < rd.size →
          patValue ra.tag (if scaleOf (k.tile a).ver.scales.toArray ra.ncols e = 255 then 255 else 127) (k.pattern a ra e) = x →
          v.elems[e]? = some (if (k.rm_ m).bit e then rd.tag.packVal (mode e) (sat = 1) x else .bits (k.pattern d rd e)))) ∧
    (r.toNat ≤ 5 → rd.tag.narrow = true →
      (s.writesTile (.tcvt d a b m sat r) d rd fun v =>
        v.holdsMx rd.tag rd.ncols rd.size (result rounded) mode (rd.tag.blockScale rd.ncols (result rounded))) ∧
      (ra.tag.narrow = false → s.writesTile (.tqnt d a b m sat r) d rd fun v =>
        v.holdsMx rd.tag rd.ncols rd.size (result source) mode (rd.tag.rowScale rd.ncols (result source)))) ∧
    (rd.tag.narrow = false ∨ ra.tag.narrow = true → s.traps (.tqnt d a b m sat r) .typeState) ∧
    (rd.tag.narrow = true ∨ ra.tag.narrow = false → s.traps (.tdq d a b m sat r) .typeState) ∧
    (5 < r.toNat → s.traps (.tcvt d a b m sat r) .typeState)) ∧
  (∀ (t : Tag) (r : Round) (sat neg : Bool) (n : Int), t.isInt = true →
    let lo : Int := if t.signed then -(2 ^ (t.width - 1)) else 0
    let hi : Int := if t.signed then 2 ^ (t.width - 1) - 1 else 2 ^ t.width - 1
    t.packVal r sat (.num .nan) = .bits 0 ∧
    t.packVal r sat (.num (.inf neg)) = .bits ((if neg then lo else hi) % 2 ^ t.width).toNat ∧
    t.packVal r sat (.int n) = .bits (t.put sat n) ∧
    (∀ (m : Nat) (e : Nat), t.packVal r sat (.num (.fin neg m e false)) =
      .bits (t.put sat ((if neg then -1 else 1) * (m * 2 ^ e : Nat)))) ∧
    (∀ (m : Nat) (s : Nat), 0 < s → t.packVal .rtz sat (.num (.fin neg m (-(s : Int)) false)) =
      .bits (t.put sat ((if neg then -1 else 1) * (m / 2 ^ s : Nat)))) ∧
    (∀ (m : Nat) (s : Nat), 0 < s → t.packVal .rdn sat (.num (.fin false m (-(s : Int)) false)) =
      .bits (t.put sat (m / 2 ^ s : Nat)))) ∧
  (∀ (t : Tag) (rm : Round) (cs : List Cell), t.narrow = true →
    let out := t.block rm none cs
    let sc := t.mxScale (cs.map fun c => c.val.toNum)
    out.1.length = cs.length ∧
    (∀ c, cs.foldl (fun a c => mergePoison a c.val.poison) none = some c → out = (List.replicate cs.length (.poison c), 255)) ∧
    ((∀ c ∈ cs, c.val.poison = none) → out.2 = sc ∧
      (∀ (j : Nat) (v : Val) (g : Bool) (r : Round), cs[j]? = some (Cell.new v g r) →
        out.1[j]? = some (Elem.bits (t.mxElem r sc v.toNum))) ∧
      (∀ (j : Nat) (e : Elem) (v : Val), cs[j]? = some (Cell.same e v) →
        out.1[j]? = some (Elem.bits (t.mxElem rm sc v.toNum)))))

/-- R156: movement carries patterns, element by element, in tiles of a tag that is not narrow; TBCAST writes a
pattern, TIOTA start + index × step. R156: TMOV under m0 moves an MX tile as it is, scales and all. It says where
these complete: TMOV, TBCAST, TIOTA, TTRANS, TSLIDE, TPERM. -/
def Obligations.MovementResult : Prop :=
  (∀ (s : State) (d a b : TileNo) (x y : Reg) (m : MaskField) (rd ra rb : ShapeRec),
    let k := s.dev.blk
    let w := rd.tag.width
    let cols := rd.ncols
    let gives (i : Instr) (f : Nat → Nat) : Prop := s.writesElems i d rd m f
    k.names d rd → rd.tag.narrow = false → k.room rd → k.plainM m → k.noGen → k.sound d rd →
    (k.plainS x → (rd.tag.isFloat = true → rd.tag.fmt.looksPoison ((k.sv x).toNat % 2 ^ w) = false) →
      gives (.tbcast d x m) (fun _ => (k.sv x).toNat % 2 ^ w)) ∧
    (k.plainS x → k.plainS y → rd.tag.isInt = true →
      gives (.tiota d x y m) (fun e => (((k.sv x).toInt + (k.sv y).toInt * e) % 2 ^ w).toNat)) ∧
    (k.names a ra → ra.code = rd.code → k.sound a ra →
      let p := k.pattern a ra
      (ra.rows = rd.rows → ra.ncols = cols →
        gives (.tmov d a m) p ∧
        (k.plainS x → gives (.tslide d a x m) (fun e =>
          let j : Int := (e % cols : Nat) + (k.sv x).toInt
          if 0 ≤ j ∧ j < cols then p (e / cols * cols + j.toNat) else 0))) ∧
      (ra.rows = cols → ra.ncols = rd.rows → gives (.ttrans d a m) (fun e => p (e % cols * ra.ncols + e / cols))) ∧
      (k.names b rb → rb.tag.isInt = true → rb.rows = rd.rows → rb.ncols = cols → ra.rows = rd.rows → k.sound b rb →
        gives (.tperm d a b m) (fun e =>
          let j := k.integer b rb e
          if 0 ≤ j ∧ j < ra.ncols then p (e / cols * ra.ncols + j.toNat) else 0)))) ∧
  (∀ (s : State) (d a : TileNo) (rd ra : ShapeRec),
    let k := s.dev.blk
    k.names d rd → k.names a ra → ra.code = rd.code → ra.rows = rd.rows → ra.ncols = rd.ncols → rd.tag.narrow = true →
    k.room rd → (k.tile a).ver.empty = false → rd.size ≤ (k.tile a).ver.elems.length →
    rd.rows * blocksOf rd.ncols ≤ (k.tile a).ver.scales.length →
    s.writesTile (.tmov d a 0) d rd fun v =>
      (∀ e, e < rd.size → v.elems[e]? = (k.tile a).ver.elems[e]?) ∧
      ∀ j, j < rd.rows * blocksOf rd.ncols → v.scales[j]? = (k.tile a).ver.scales[j]?)

/-- R114, R115, R157: TREDR and TREDC reduce each row or column by the tree, with the identity in place of what the
mask leaves out, and TSCAN along each row in order; an integer sum is the sum modulo the width. It says where these
complete: TREDR, TREDC, TSCAN. -/
def Obligations.ReductionResult : Prop :=
  ∀ (s : State) (d a : TileNo) (m : MaskField) (x : BitVec 3) (rd ra : ShapeRec),
    let k := s.dev.blk
    let t := ra.tag.reductionType
    let op := x.toNat
    let cols := ra.ncols
    let node := redNode t op
    let item (e : Nat) : Val :=
      if (k.rm_ m).bit e then (((k.vals a ra)[e]?).getD (.num .nan)).promoteTo ra.tag t else redIdentity t op
    let row (i : Nat) : List Val := (List.range cols).map fun j => item (i * cols + j)
    let col (j : Nat) : List Val := (List.range ra.rows).map fun i => item (i * cols + j)
    let reduce (vs : List Val) : Val := tree node (vs.length + 1) vs (.num (.zero false))
    let upTo (vs : List Val) : Val := match vs with
      | [] => .num (.zero false)
      | v :: r => r.foldl node v
    let out (v : Val) : Elem := rd.tag.packVal .rne false v
    let term (e : Nat) : Int := if (k.rm_ m).bit e then k.integer a ra e else 0
    k.names d rd → k.names a ra → (t.isFloat = true → op ≤ 2 ∧ rd.tag.isFloat = true) → op ≤ 5 →
    rd.tag.narrow = false → k.room rd → k.plainM m → k.noGen → k.sound a ra → 0 < cols →
    (rd.rows = ra.rows → rd.ncols = 1 → s.writesTile (.tredr d a m x) d rd fun v => ∀ i, i < ra.rows →
      v.elems[i]? = some (out (reduce (row i))) ∧
      (op = 0 → ra.tag.isInt = true → rd.tag.isInt = true → v.elems[i]? = some (.bits
        ((((List.range cols).map fun j => term (i * cols + j)).sum % 2 ^ rd.tag.width).toNat)))) ∧
    (rd.rows = 1 → rd.ncols = cols → s.writesTile (.tredc d a m x) d rd fun v => ∀ j, j < cols →
      v.elems[j]? = some (out (reduce (col j))) ∧
      (op = 0 → ra.tag.isInt = true → rd.tag.isInt = true → v.elems[j]? = some (.bits
        ((((List.range ra.rows).map fun i => term (i * cols + j)).sum % 2 ^ rd.tag.width).toNat)))) ∧
    (rd.rows = ra.rows → rd.ncols = cols → s.writesTile (.tscan d a m x) d rd fun v => ∀ i j, i < ra.rows → j < cols →
      v.elems[i * cols + j]? = some (out (upTo ((row i).take (j + 1)))) ∧
      (op = 0 → ra.tag.isInt = true → rd.tag.isInt = true → v.elems[i * cols + j]? = some (.bits
        ((((List.range (j + 1)).map fun n => term (i * cols + n)).sum % 2 ^ rd.tag.width).toNat))))

/-- R157: TNZ lists the selected elements that are not zero, TCOMP packs the selected elements, TEXPD spreads them.
R157: TGETS gives one element, TCLASS and TPMASK a mask of the elements of a class or of the poisoned ones. It says
where these complete: TNZ, TCOMP, TEXPD, TGETS, TCLASS, TPMASK. -/
def Obligations.CompactionResult : Prop :=
  (∀ (s : State) (d a : TileNo) (m : MaskField) (rd ra : ShapeRec),
    let k := s.dev.blk
    let bit := (k.rm_ m).bit
    let p := k.pattern a ra
    k.names d rd → k.names a ra → rd.tag.narrow = false → k.room rd → k.plainM m → k.noGen → k.sound a ra →
    (rd.tag = .int32 ∨ rd.tag = .uint32 → s.writesTile (.tnz d a m) d rd fun v => ∀ j, j < rd.size →
      v.elems[j]? = some (.bits (match ((List.range ra.size).filter fun e =>
          bit e && (((k.vals a ra)[e]?).getD (.int 0)).nonZero)[j]? with
        | some e => e % 2 ^ 32
        | none => 0xFFFFFFFF))) ∧
    (ra.code = rd.code →
      (s.writesTile (.tcomp d a m) d rd fun v => ∀ j, j < rd.size →
        v.elems[j]? = some (.bits (match ((List.range ra.size).filter bit)[j]? with
          | some e => p e
          | none => 0))) ∧
      (s.writesTile (.texpd d a m) d rd fun v => ∀ e, e < rd.size →
        let n := ((List.range e).filter bit).length
        v.elems[e]? = some (.bits (if bit e = true ∧ n < ra.size then p n else 0))))) ∧
  (∀ (s : State) (d b : Reg) (a : TileNo) (md m : MaskField) (c : BitVec 4) (ra : ShapeRec) (p : Nat) (e : Crumb),
    let k := s.dev.blk
    let i := (k.sv b).toNat
    let es := (k.tile a).ver.elements ra
    k.names a ra →
    (k.plainS b → i < ra.size →
      (es[i]? = some (.bits p) →
        (ra.tag.isInt = true →
          exec (.tgets d a b) s = .next (s.setScalar true d (SReg.plain (BitVec.ofInt 64 (k.integer a ra i))))) ∧
        (ra.tag.isFloat = true → ra.tag.narrow = false →
          exec (.tgets d a b) s = .next (s.setScalar true d (SReg.plain (BitVec.ofNat 64 p)))) ∧
        (ra.tag.narrow = true → exec (.tgets d a b) s =
          .next (s.setScalar true d (SReg.plain (BitVec.ofNat 64 (Fmt.single.pack .rne (k.number a ra .fp32 i))))))) ∧
      (es[i]? = some (.poison e) → exec (.tgets d a b) s = .next (s.setScalar true d (SReg.bad e)))) ∧
    (k.plainS b → ra.size ≤ i → s.traps (.tgets d a b) .tileIndex) ∧
    ((k.rs b).poison ≠ none → s.traps (.tgets d a b) .poisonAddr) ∧
    (k.plainM m → k.fits (ceilDiv ra.size k.place.width) = true →
      let cls (v : Val) : Nat := match v with
        | .int n => if n = 0 then 0 else 1
        | .num (.fin _ n _ _) => if n = 0 then 0 else 1
        | .num (.inf _) => 2
        | .num .nan | .bad _ => 3
      (∃ v : MaskReg, exec (.tclass md a m c) s = .next (s.setMask md v) ∧ v.n = ra.size ∧ v.fill = false ∧
        v.poison = none ∧ ∀ e x, (k.vals a ra)[e]? = some x → v.bit e = ((k.rm_ m).bit e && c.getLsbD (cls x))) ∧
      (∃ v : MaskReg, exec (.tpmask md a m) s = .next (s.setMask md v) ∧ v.n = ra.size ∧ v.fill = false ∧
        v.poison = none ∧ ∀ e x, es[e]? = some x → v.bit e = ((k.rm_ m).bit e && x.crumb.isSome))))

/-- R158, R159: the mask instructions, bit by bit, with fills and the merge of their poison. It says where these
complete: MAND, MOR, MXOR, MNOT, MPOPC, MFIRST, MSETS, MPSUM. -/
def Obligations.MaskResult : Prop :=
  ∀ (s : State) (d a b : MaskField) (x : Reg) (t : TileNo) (rt : ShapeRec),
    let k := s.dev.blk
    let p := k.rm_ a
    let q := k.rm_ b
    let w := k.place.width
    let ones (n : Nat) : Nat := ((List.range n).filter p.bit).length
    let both (i : Instr) (f : Bool → Bool → Bool) : Prop :=
      ∃ v : MaskReg, exec i s = .next (s.setMask d v) ∧ v.n = max p.n q.n ∧ (∀ e, v.bit e = f (p.bit e) (q.bit e)) ∧
        v.poison = mergePoison p.poison q.poison
    (k.fits (ceilDiv (max p.n q.n) w) = true →
      both (.mand d a b) (fun y z => y && z) ∧ both (.mor d a b) (fun y z => y || z) ∧
      both (.mxor d a b) (fun y z => y != z)) ∧
    (k.fits (ceilDiv p.n w) = true →
      ∃ v : MaskReg, exec (.mnot d a) s = .next (s.setMask d v) ∧ v.n = p.n ∧ (∀ e, v.bit e = !p.bit e) ∧
        v.poison = p.poison) ∧
    (p.poison = none →
      exec (.mpopc x a) s =
        .next (s.setScalar true x (SReg.plain (if p.fill then BitVec.allOnes 64 else BitVec.ofNat 64 (ones p.n)))) ∧
      (∀ e, p.bit e = true → (∀ j, j < e → p.bit j = false) →
        exec (.mfirst x a) s = .next (s.setScalar true x (SReg.plain (BitVec.ofNat 64 e)))) ∧
      ((∀ e, p.bit e = false) → exec (.mfirst x a) s = .next (s.setScalar true x (SReg.plain (BitVec.allOnes 64))))) ∧
    (∀ c, p.poison = some c → ∀ i ∈ [Instr.mpopc x a, .mfirst x a],
      exec i s = .next (s.setScalar true x (SReg.bad c))) ∧
    (k.plainS x → (k.sv x).toNat < 2 ^ 32 → k.fits (ceilDiv (k.sv x).toNat w) = true →
      ∃ v : MaskReg, exec (.msets d x) s = .next (s.setMask d v) ∧ v.n = (k.sv x).toNat ∧ v.poison = none ∧
        ∀ e, v.bit e = decide (e < (k.sv x).toNat)) ∧
    (k.plainS x → 2 ^ 32 ≤ (k.sv x).toNat → s.traps (.msets d x) .tileSpace) ∧
    ((k.rs x).poison ≠ none → s.traps (.msets d x) .poisonAddr) ∧
    (k.names t rt → rt.tag.isInt = true → k.room rt → p.poison = none →
      s.writesTile (.mpsum t a) t rt fun v => ∀ e, e < rt.size →
        v.elems[e]? = some (.bits (ones e % 2 ^ rt.tag.width))) ∧
    (k.names t rt → rt.tag.isInt = false → s.traps (.mpsum t a) .typeState)

/-- R161 to R166, R177: MAP and MAP3 run the body that follows on each selected element and write what it leaves in
e0, narrowed into d's tag; execution goes on behind the body, and nothing but d's version changes. R162, R167 to R169:
REDUCE combines each row by the tree and SCAN in order, by a body that acts as a function of two registers of one
type; they run on a source that the grant covers, within 256 units of work. It says where these complete: MAP, MAP3,
REDUCE, SCAN. -/
def Obligations.LaneFunctionResult : Prop :=
  (∀ (s : State) (d a b : TileNo) (m : MaskField) (l : BitVec 5) (rd ra rb : ShapeRec) (recs : TileNo → ShapeRec)
    (leaf : Nat → Leaf) (body : List LaneInsn) (x y z : Nat → EReg) (three : Bool) (f : Nat → Nat),
    let k := s.dev.blk
    let n := l.toNat + 1
    let at_ (i : Nat) : Nat := k.pc.toNat + 4 + 4 * i
    let word (i : Nat) : Insn := BitVec.ofNat 32 (s.mem.number ((leaf i).pa (at_ i)) 4)
    let tables := k.lutTables ((lutTiles body).map fun t => (t, recs t))
    let i : Instr := if three then .map3 d a b m l else .map d a b m l
    k.loop = none → k.pc.toNat + 4 + 4 * n ≤ 2 ^ 48 →
    (∀ j, j < n → (Work.start s).cached k.space (at_ j) = some (leaf j) ∧ (leaf j).allows k.ps.pl .fetch = true ∧
      s.ownLine (lineOf ((leaf j).pa (at_ j)))) → s.dev.calm →
    laneBody ((List.range n).map word) = some body →
    k.names d rd → k.names a ra → k.names b rb → (∀ t ∈ lutTiles body, k.names t (recs t) ∧ (recs t).size ≤ 4096) →
    ra.rows = rd.rows → ra.ncols = rd.ncols → rb.rows = rd.rows → rb.ncols = rd.ncols → k.room rd → k.plainM m → k.noGen →
    rd.tag.narrow = false → k.sound d rd →
    (∀ e, e < rd.size → ((k.tile a).ver.regs ra)[e]? = some (x e) ∧ ((k.tile b).ver.regs rb)[e]? = some (y e) ∧
      ((k.tile d).ver.regs rd)[e]? = some (z e)) →
    (∀ e, e < rd.size → (k.rm_ m).bit e = true → ∃ r made,
      laneCall { idx := e, blk := k, tables := tables, gen := none } body
        (if three then [x e, y e, z e] else [x e, y e]) = .ok (r, made) ∧
      r.tag ≠ .none ∧ (r.tag.isFloat = true → rd.tag.isInt = false) ∧
      rd.tag.packVal .rne false r.val = .bits (f e)) →
    s.answers i fun t =>
      (∀ e, e < rd.size → (t.dev.blk.tile d).ver.elems[e]? =
        some (.bits (if (k.rm_ m).bit e then f e else k.pattern d rd e))) ∧
      t.dev.blk.pc = k.pc + BitVec.ofNat 64 (4 * (n + 1)) ∧ s.readOnly t ∧
      { t.dev.blk.since k with t := k.t } = k ∧ ∀ q, q ≠ d → t.dev.blk.tile q = k.tile q) ∧
  (∀ (s : State) (d a : TileNo) (m : MaskField) (l : BitVec 5) (rd ra : ShapeRec) (leaf : Nat → Leaf)
    (body : List LaneInsn) (x : Nat → EReg) (t : Tag) (f : EReg → EReg → EReg),
    let k := s.dev.blk
    let n := l.toNat + 1
    let cols := ra.ncols
    let at_ (i : Nat) : Nat := k.pc.toNat + 4 + 4 * i
    let word (i : Nat) : Insn := BitVec.ofNat 32 (s.mem.number ((leaf i).pa (at_ i)) 4)
    let out (r : EReg) : Elem := rd.tag.packVal .rne false r.val
    let row (i : Nat) : List EReg := (List.range cols).map fun j => x (i * cols + j)
    let rest (u : State) : Prop := u.dev.blk.pc = k.pc + BitVec.ofNat 64 (4 * (n + 1)) ∧ s.readOnly u ∧
      { u.dev.blk.since k with t := k.t } = k ∧ ∀ q, q ≠ d → u.dev.blk.tile q = k.tile q
    k.loop = none → k.pc.toNat + 4 + 4 * n ≤ 2 ^ 48 →
    (∀ j, j < n → (Work.start s).cached k.space (at_ j) = some (leaf j) ∧ (leaf j).allows k.ps.pl .fetch = true ∧
      s.ownLine (lineOf ((leaf j).pa (at_ j)))) → s.dev.calm →
    laneBody ((List.range n).map word) = some body → lutTiles body = [] →
    k.names d rd → k.names a ra → rd.rows = ra.rows → k.room rd → k.noGen → rd.tag = .fp32 ∨ rd.tag = .fp64 →
    k.plainM m → (∀ e, e < ra.size → (k.rm_ m).bit e = true) → 0 < cols → ra.size ≤ ra.tag.grant k.effShare →
    (∀ e, e < ra.size → ((k.tile a).ver.regs ra)[e]? = some (x e) ∧ (x e).tag = t ∧ (x e).poison = none) → t ≠ .none →
    (∀ p q e, p.tag = t → p.poison = none → q.tag = t → q.poison = none →
      laneCall { idx := e, blk := k, tables := [], gen := none } body [p, q] = .ok (f p q, false) ∧
      (f p q).tag = t ∧ (f p q).poison = none) →
    (rd.ncols = 1 → ceilLog2 cols * bodyWeight body ≤ 256 → s.answers (.reduce d a m l) fun u => rest u ∧
      ∀ i, i < ra.rows → (u.dev.blk.tile d).ver.elems[i]? =
        some (out (tree f (cols + 1) (row i) (x (i * cols))))) ∧
    (rd.ncols = cols → cols * bodyWeight body ≤ 256 → s.answers (.scan d a m l) fun u => rest u ∧
      ∀ i j, i < ra.rows → j < cols → (u.dev.blk.tile d).ver.elems[i * cols + j]? =
        some (out (((List.range j).map fun c => x (i * cols + (c + 1))).foldl f (x (i * cols))))))

/-- R43, R57, R152 to R157: the frame of the instructions from tiles to a tile: either the instruction traps with
nothing changed, or d's version alone changes, of the block's registers, and of memory and metadata nothing outside the
context's crumb log. -/
def Obligations.TileFrame : Prop :=
  ∀ (s t : State) (d a b : TileNo) (m : MaskField) (r : Rm) (x y : Reg) (q : BitVec 1) (op : BitVec 3) (i : Instr),
    let k := s.dev.blk
    i ∈ (elementInstrs d a b m r).map (·.1) ++ [.tsel d a b m r, .tcvt d a x m q r, .tqnt d a x m q r, .tdq d a x m q r,
      .tmov d a m, .tbcast d x m, .tiota d x y m, .ttrans d a m, .tslide d a x m, .tperm d a b m, .tredr d a m op,
      .tredc d a m op, .tscan d a m op, .tnz d a m, .tcomp d a m, .texpd d a m, .mpsum d m] →
    exec i s = .next t →
      (∃ c, t = s.takeTrap c 0 0 none) ∨
      ({ t.dev.blk.since k with t := k.t } = k ∧ (∀ z, z ≠ d → t.dev.blk.tile z = k.tile z) ∧
        (t.dev.blk.tile d).bound = (k.tile d).bound ∧ (t.dev.blk.tile d).inbox = (k.tile d).inbox ∧
        t.dev.blk.pc = k.pc + 4 ∧ t.dev.others = s.dev.others ∧ (s.dev.direct → s.outside t s.dev.inCrumbLog))

/-- R214, R216, R296, R297: POISON makes every element poison with the origin of a new entry of the crumb log, or 0;
MARBLE sets PSTATE.MARBLE and marks the records that no longer fit; SJOIN puts its mark behind older writes; FENCE
goes on once they are performed. It says where these complete: POISON, MARBLE, FENCE, SJOIN. -/
def Obligations.PoisonMarbleJoinFence : Prop :=
  ∀ (s : State) (d : TileNo) (a : Reg) (r : ShapeRec) (o : Os) (e : Pend) (bs : List Host.Cell) (q : Req),
    let k := s.dev.blk
    let lb := s.dev.logBase k.id.ctx
    let n := lb.toNat % 32
    let base := lb.toNat / 4096 * 4096
    let next := s.mem.number base 4
    let frame (t : State) : Prop := t.dev.blk.pc = k.pc + 4 ∧ t.dev.others = s.dev.others
    let release := o.kind = .rel ∨ o.kind = .acqrel ∨ o.kind = .sc
    (k.names d r → k.plainS a → k.room r → s.dev.direct → s.answers (.poison d a) fun t =>
      (∃ c, (∀ e, e < r.size → (t.dev.blk.tile d).ver.elems[e]? = some (.poison c)) ∧
        (n < 7 ∨ 20 < n → c = { origin := 0, merged := false }) ∧
        (7 ≤ n → n ≤ 20 → base < 2 * 2 ^ 60 → next < 2 ^ n - 1 →
          c = { origin := BitVec.ofNat 20 next, merged := false })) ∧
      { t.dev.blk.since k with t := k.t } = k ∧ (∀ q, q ≠ d → t.dev.blk.tile q = k.tile q) ∧ frame t ∧
      s.outside t s.dev.inCrumbLog) ∧
    (k.names d r → (k.rs a).poison ≠ none → s.traps (.poison d a) .poisonCtrl) ∧
    (k.plainS a → (k.sv a).toNat ≤ 1 → s.answers (.marble a) fun t =>
      let on := decide (k.sv a = 1)
      let share := if on then k.place.share / 2 else k.place.share
      t.dev.blk.ps = { k.ps with marble := on } ∧ t.dev.blk.effShare = share ∧
      (∀ x : RecNo,
        let y := k.h[x.toNat]
        t.dev.blk.h[x.toNat] =
          (if on = true ∧ y.grant = true ∧ y.code ≠ 0 ∧ y.tag.grant share < y.cols.toNat then { y with stale := true }
           else y)) ∧
      { t.dev.blk.since k with ps := k.ps, h := k.h } = k ∧ frame t ∧
      (s.dev.direct → s.outside t (s.dev.inMirror k.place.core))) ∧
    (k.plainS a → 1 < (k.sv a).toNat → s.traps (.marble a) .sysState) ∧
    ((k.rs a).poison ≠ none → s.traps (.marble a) .poisonCtrl) ∧
    (k.pend = [] → exec .sjoin s = .next (s.goOn true)) ∧
    (k.pend ≠ [] → exec .sjoin s = .next (s.commit true
      { k with pend := k.pend ++ [{ slice := 17, line := 0, kind := .mark false, poison := false, bypass := false }] }
      (k.pc + 4))) ∧
    (¬ release → exec (.fence o) s = .next (s.goOn true)) ∧
    (release → k.pend = [] → s.dev.link.reqs = [] → exec (.fence o) s = .next (s.goOn true)) ∧
    (release → k.pend = [e] → e.kind = .bytes bs → (∀ c ∈ bs, lineOf c.1 = e.line) → (bs.map (·.1)).Nodup →
      s.dev.calm → (e.line + 1) * 128 ≤ 3 * 2 ^ 60 → metaState (s.tags.read e.line) = 0 →
      (Work.start s).hostFree e.line = true → s.answers (.fence o) fun t =>
        t.dev.blk.pend = [] ∧ t.dev.blk.pc = k.pc + 4 ∧ k.sameFiles t.dev.blk ∧
        (∀ c ∈ bs, t.mem.read c.1 = c.2) ∧ ∀ a, (∀ c ∈ bs, c.1 ≠ a) → t.mem.read a = s.mem.read a) ∧
    (release → k.pend = [] → q ∈ s.dev.link.reqs → q.kind = .write → q.by_ = some k.id.key → q.answer = none →
      exec (.fence o) s = .next { s with dev := Dev.held { s.dev with blk := { k with fencing := true } } })

/-! ## Tile memory -/

/-- R182 to R188, R196, R197, R225: TLD, TLDS, TLDB, TLDG, TLDW and TLDSH, where every page they touch is there: each
selected element takes what memory holds where R184, R187 or the tensor map puts it, decoded from the encoding of
MFMT; a poisoned mask poisons the tile. That TLDSH under COMPAT starts at element 0 and leaves ESTART as it is is the
model's reading of R225 (log entry 40). It says where these complete: TLD, TLDS, TLDB, TLDG, TLDW, TLDSH. -/
def Obligations.TileLoadResult : Prop :=
  ∀ (s : State) (d x : TileNo) (a b : Reg) (m : MaskField) (h : BitVec 1) (o : Os) (r rx : ShapeRec) (pg : Nat → Leaf)
    (i : Instr) (unit : TlbUnit) (src : Nat → Option Source),
    let k := s.dev.blk
    let f := k.format r.tag
    let u := f.enc.unit
    let base := (k.sv a).toNat
    let mm := k.loadMask m
    let lo := k.loadStart
    let here (off : Int) : Nat := ((base + off) % 2 ^ 64).toNat
    let inRow (off : Int) (e : Nat) : Source := f.source (here off) r.ncols (e % r.ncols)
    let rows (stride : Int) (e : Nat) : Option Source := some (inRow (stride * (e / r.ncols : Nat)) e)
    let gather (e : Nat) : Option Source :=
      let j := if rx.ncols = 1 then e / r.ncols else e
      if k.pattern x rx j = 2 ^ rx.tag.width - 1 then none
      else if rx.ncols = 1 then some (inRow (k.integer x rx j * f.enc.rowBytes r.ncols) e)
      else some (f.source (here (k.integer x rx j * u)) 1 0)
    let wide : Prop := f.enc.narrow = false ∧ 8 ≤ f.enc.width
    let all : List (Instr × TlbUnit × (Nat → Option Source)) :=
      [(.tld d a m h o, k.laneUnit, rows (f.enc.rowBytes r.ncols)), (.tlds d a b m h o, k.laneUnit, rows (k.sv b).toInt),
       (.tldb d a m h o, k.laneUnit, rows 0), (.tldg d a x m h o, .gather, gather)]
    k.names d r → k.formatOk → k.plainS a → s.dev.calm → k.batch = none → k.parked = none → k.pend = [] → k.sound d r →
    k.fits (r.storage k.place.width + k.loadRows r) = true →
    ((i, unit, src) ∈ all → (i = .tlds d a b m h o → k.plainS b ∧ (k.sv b).toInt % u = 0) →
      (i = .tldg d a x m h o → k.names x rx ∧ rx.tag.isInt = true ∧ k.sound x rx ∧ rx.rows = r.rows ∧
        (rx.ncols = 1 ∨ rx.ncols = r.ncols ∧ wide)) →
      (k.plainM mm → (∀ e y, e < r.size → lo ≤ e → (k.rm_ mm).bit e = true → src e = some y →
          y.va % u = 0 ∧ s.reaches unit pg .read y) →
        s.loads i d r mm lo (fun e => (src e).map (s.loaded pg f)) 0 k.startOver) ∧
      (∀ c, (k.rm_ mm).poison = some c → base % u = 0 → s.answers i fun t =>
        (∀ e, e < r.size → (t.dev.blk.tile d).ver.elems[e]? = some (.poison c)) ∧ t.dev.blk.pc = k.pc + 4 ∧
        s.sameMemory t)) ∧
    (∀ c, wide → k.plainS b → (k.rm_ mm).poison = some c → base % 128 = 0 → s.answers (.tldw d a b m h o) fun t =>
      (∀ e, e < r.size → (t.dev.blk.tile d).ver.elems[e]? = some (.poison c)) ∧ t.dev.blk.pc = k.pc + 4 ∧
      s.sameMemory t) ∧
    (∀ (map : TensorMap) (l : Leaf), wide → k.plainS b → k.plainM mm → base % 128 = 0 →
      s.sees k.scalarUnit base .read l →
      let at_ := l.pa base
      let places (e : Nat) : Option Source :=
        (map.addr (k.sv b) (e / r.ncols) (e % r.ncols)).map fun va => f.source va 1 0
      s.ownLine (lineOf at_) → tensorMap f.enc.width ((List.range 128).map fun j => s.mem.read (at_ + j)) = some map →
      k.sv b >>> (16 * map.ext.length) = 0 → map.base % u = 0 → (∀ y ∈ map.stride, y % u = 0) →
      (∀ e y, e < r.size → lo ≤ e → (k.rm_ mm).bit e = true → places e = some y →
        y.va % u = 0 ∧ s.reaches k.laneUnit pg .read y) →
      s.loads (.tldw d a b m h o) d r mm lo (fun e => (places e).map (s.loaded pg f)) map.fill k.startOver) ∧
    (k.plainM mm →
      let y (e : Nat) : Source := inRow ((f.enc.rowBytes r.ncols : Int) * (e / r.ncols : Nat)) e
      (∀ e, e < r.size → (k.rm_ mm).bit e = true → (y e).va % u = 0 ∧ ∀ g ∈ (y e).ranges, g.1 + g.2 ≤ k.place.scratch) →
      s.loads (.tldsh d a m) d r mm 0 (fun e => some
        { pat := k.scratch.number (y e).va (y e).bytes / 2 ^ (y e).shift % 2 ^ f.enc.width,
          scale := match (y e).scale with
            | some z => k.scratch.number z 1
            | none => 0,
          poison := none }) 0 k.csr.estart)

/-- R189 to R191: TLDC decodes one chunk of each coding, with zeros in the selected elements that follow it; TLDM
reads a mask image. It says where these complete: TLDC, TLDM. -/
def Obligations.StreamLoadResult : Prop :=
  ∀ (s : State) (d : TileNo) (md : MaskField) (a b : Reg) (h : BitVec 1) (o : Os) (r : ShapeRec) (pg : Nat → Leaf)
    (n coding pl : Nat),
    let k := s.dev.blk
    let f := k.format r.tag
    let u := f.enc.unit
    let base := (k.sv a).toNat
    let byte (j : Nat) : Byte := s.mem.read ((pg (pageOf (base + j))).pa (base + j))
    let number (j c : Nat) : Nat := ((List.range c).map fun y => (byte (j + y)).toNat * 256 ^ y).sum
    let nb := (n + 7) / 8
    let bit (j : Nat) : Bool := (byte (8 + j / 8)).getLsbD (j % 8)
    let ones (j : Nat) : Nat := ((List.range j).filter bit).length
    let size := 8 + (pl + 7) / 8 * 8
    let pat (e : Nat) : Nat := match coding with
      | 0 => number (8 + e * u) u
      | 1 => if bit e then number (8 + nb + ones e * u) u else 0
      | _ => number 8 u
    let there (c : Nat) : Prop := base + c ≤ 2 ^ 48 ∧ ∀ j, j < c →
      let l := pg (pageOf (base + j))
      s.sees k.laneUnit (base + j) .read l ∧ s.ownLine (lineOf (l.pa (base + j)))
    k.plainS a → s.dev.calm → k.waitsOn = none → k.pend = [] →
    (k.names d r → k.formatOk → k.plainS b → f.enc.narrow = false → 8 ≤ f.enc.width → r.tag.narrow = false →
      base % u = 0 → k.room r → 1 ≤ n → n ≤ r.size → pl < 2 ^ 24 → coding ≤ 2 →
      number 0 8 = n + 2 ^ 32 * pl + 2 ^ 56 * coding →
      pl = (match coding with
        | 0 => n * u
        | 1 => nb + ones n * u
        | _ => u) →
      size ≤ (k.sv b).toNat → (k.sv b).toNat < size + 8 → there (8 + pl) →
      s.answers (.tldc d a b 0 h o) fun t =>
        (t.dev.blk.tile d).ver.valid = n ∧ (∀ e, e < r.size → (t.dev.blk.tile d).ver.elems[e]? =
          some (r.tag.take f { pat := if e < n then pat e else 0, scale := 127, poison := none })) ∧
        { t.dev.blk.since k with t := k.t } = k ∧ (∀ q, q ≠ d → t.dev.blk.tile q = k.tile q) ∧
        t.dev.blk.pc = k.pc + 4 ∧ s.sameData t) ∧
    (base % 8 = 0 → n < 2 ^ 32 → ∀ fill : Bool, number 0 8 = n + (if fill then 2 ^ 32 else 0) → there (8 + nb) →
      k.fits (ceilDiv n k.place.width) = true →
      s.answers (.tldm md a) fun t => s.readOnly t ∧ t.dev.blk =
        (k.wm md { n := n, fill := fill, bits := number 8 nb % 2 ^ n, poison := none }).advance s.dev.clock (k.pc + 4))

/-- R150, R267, R270 to R278, R280: TST, TSTS, TSCT and TSCTA commit and queue their writes: no write reaches a byte
outside the selected elements' places, and in encodings of whole bytes each place takes its last element's bytes, in
the queue of its column's slice, where the slices' queues have room for them (R321). In encodings of 4 bits each place
takes its last element's half byte, and in narrow encodings whole blocks, with the stored scale or the one that R90
chooses. TSTSH writes the block's scratch at once; that it starts at element 0 and leaves ESTART as it is under COMPAT is
the model's reading of R225 (log entry 40). It says where these complete: TST, TSTS, TSCT, TSCTA, TSTSH. -/
def Obligations.TileStoreResult : Prop :=
  ∀ (s : State) (d x : TileNo) (a b : Reg) (m : MaskField) (h : BitVec 1) (o : Os) (r rx : ShapeRec) (pg : Nat → Leaf)
    (i : Instr) (unit : TlbUnit) (src : Nat → Option Source),
    let k := s.dev.blk
    let f := k.format r.tag
    let u := f.enc.unit
    let w := f.enc.width / 8
    let base := (k.sv a).toNat
    let here (off : Int) : Nat := ((base + off) % 2 ^ 64).toNat
    let inRow (off : Int) (e : Nat) : Source := f.source (here off) r.ncols (e % r.ncols)
    let rows (stride : Int) (e : Nat) : Option Source := some (inRow (stride * (e / r.ncols : Nat)) e)
    let gather (e : Nat) : Option Source :=
      let j := if rx.ncols = 1 then e / r.ncols else e
      if k.pattern x rx j = 2 ^ rx.tag.width - 1 then none
      else if rx.ncols = 1 then some (inRow (k.integer x rx j * f.enc.rowBytes r.ncols) e)
      else some (f.source (here (k.integer x rx j * u)) 1 0)
    let wide : Prop := f.enc.narrow = false ∧ 8 ≤ f.enc.width
    let pa (va : Nat) : Nat := (pg (pageOf va)).pa va
    let byte (e j : Nat) : Byte := BitVec.ofNat 8 (k.stored d r f e / 256 ^ j)
    let slice (e : Nat) : Nat := r.tag.sliceOf k.place (e % r.ncols)
    let all : List (Instr × TlbUnit × (Nat → Option Source)) :=
      [(.tst d a m h o, k.laneUnit, rows (f.enc.rowBytes r.ncols)), (.tsts d a b m h o, k.laneUnit, rows (k.sv b).toInt),
       (.tsct d a x m h o, .gather, gather)]
    let fine : Prop := f.enc.narrow = false ∧ f.enc.width = 4
    let mx : Prop := f.enc.narrow = true
    k.names d r → k.formatOk → k.plainS a → k.batch = none → k.parked = none → k.sound d r →
    (∀ mm, mm = k.loadMask m → k.plainM mm → s.dev.link.reqs = [] → k.fits (k.loadRows r) = true →
      let sel (e : Nat) : Prop := e < r.size ∧ k.loadStart ≤ e ∧ (k.rm_ mm).bit e = true
      let stores (src : Nat → Option Source) : Prop :=
        ∀ e y, sel e → src e = some y → y.va % u = 0 ∧ s.reaches unit pg .write y
      ((i, unit, src) ∈ all → (i = .tsts d a b m h o → k.plainS b ∧ (k.sv b).toInt % u = 0) →
        (i = .tsct d a x m h o → k.names x rx ∧ rx.tag.isInt = true ∧ k.sound x rx ∧ rx.rows = r.rows ∧
          (rx.ncols = 1 ∨ rx.ncols = r.ncols ∧ wide)) → stores src →
        (mx → r.tag.narrow = false → k.noGen) →
        s.queues i o r.size fun es =>
          (∀ p ∈ es, ∀ z ∈ p.places, ∃ e y, sel e ∧ src e = some y ∧ ∃ g ∈ y.ranges, ∃ j, j < g.2 ∧
            z = pa (wrap64 (g.1 + j))) ∧
          (wide → writesBytes es (fun e => sel e ∧ (src e).isSome = true) w
              (fun e j => pa (wrap64 (((src e).map (·.va)).getD 0 + j))) byte slice ∧
            (es.flatMap Pend.places).Nodup ∧ (es.map fun p => (p.slice, p.line)).Nodup ∧ ∀ p ∈ es, p.places ≠ []) ∧
          let gets (z : Nat) (part v : Byte) : Prop :=
            ∃ p ∈ es, p.line = lineOf z ∧ p.poison = false ∧ p.gives z part v
          (fine → writesHalves gets r.ncols sel src pa (k.stored d r f)) ∧
          (mx → writesBlocks gets r.ncols sel src pa (k.storedBlock d r f))) ∧
      (k.names x rx → rx.tag.isInt = true → k.sound x rx → rx.rows = r.rows → rx.ncols = r.ncols → f.enc = r.tag →
        r.tag ∈ [Tag.fp64, .fp32, .int32, .uint32] →
        let at_ (e : Nat) : Nat := here (k.integer x rx e * u)
        let live (e : Nat) : Bool := decide (k.loadStart ≤ e) && (k.rm_ mm).bit e &&
          k.pattern x rx e != 2 ^ rx.tag.width - 1
        (∀ e, e < r.size → live e = true →
          at_ e % u = 0 ∧ s.sees .gather (pageOf (at_ e)) .atomic (pg (pageOf (at_ e)))) →
        (∀ e y, e < y → y < r.size → live e = true → live y = true → at_ e ≠ at_ y) →
        s.queues (.tscta d a x m h o) o r.size fun es => ∃ gen : Nat → GenNan, (k.noGen → ∀ e, gen e = .off) ∧
          es = ((List.range r.size).filter live).map fun e =>
            { slice := slice e, line := lineOf (pa (at_ e)),
              kind := .add (pa (at_ e)) r.tag (.bits (k.pattern d r e)) (gen e), poison := false, bypass := false })) ∧
    (k.plainM m →
      let y (e : Nat) : Source := inRow ((f.enc.rowBytes r.ncols : Int) * (e / r.ncols : Nat)) e
      let sel (e : Nat) : Prop := e < r.size ∧ (k.rm_ m).bit e = true
      (∀ e, sel e → (y e).va % u = 0 ∧ ∀ g ∈ (y e).ranges, g.1 + g.2 ≤ k.place.scratch) →
      s.answers (.tstsh d a m) fun t =>
        { t.dev.blk.since k with scratch := k.scratch } = k ∧ t.dev.blk.pc = k.pc + 4 ∧ s.sameMemory t ∧
        (∀ z, (∀ e, sel e → ∀ g ∈ (y e).ranges, z < g.1 ∨ g.1 + g.2 ≤ z) → t.dev.blk.scratch.read z = k.scratch.read z) ∧
        (wide → ∀ e, sel e → ∀ j, j < w → (∀ q, sel q → e < q → ∀ n, n < w → (y q).va + n ≠ (y e).va + j) →
          t.dev.blk.scratch.read ((y e).va + j) = byte e j) ∧
        let gets (z : Nat) (part v : Byte) : Prop := t.dev.blk.scratch.read z &&& part = v &&& part
        (fine → writesHalves gets r.ncols sel (fun e => some (y e)) id (k.stored d r f)) ∧
        (mx → writesBlocks gets r.ncols sel (fun e => some (y e)) id (k.storedBlock d r f)))

/-- R279, R280: TATOM updates each selected word of this device's memory and gives d the words as they were. It says
where these complete: TATOM. -/
def Obligations.TileAtomicResult : Prop :=
  ∀ (s : State) (d x : TileNo) (a : Reg) (m : MaskField) (p : BitVec 3) (o : Os) (r rx : ShapeRec) (pg : Nat → Leaf),
    let k := s.dev.blk
    let f := k.format r.tag
    let g := r.tag.fmt
    let w := r.tag.width
    let op := p.toNat
    let mm := k.loadMask m
    let at_ (e : Nat) : Nat := (((k.sv a).toNat + k.integer x rx e * (w / 8)) % 2 ^ 64).toNat
    let pa (e : Nat) : Nat := (pg (pageOf (at_ e))).pa (at_ e)
    let sel (e : Nat) : Prop := e < r.size ∧ k.loadStart ≤ e ∧ (k.rm_ mm).bit e = true
    let live (e : Nat) : Prop := sel e ∧ k.pattern x rx e ≠ 2 ^ rx.tag.width - 1
    let old (e : Nat) : Nat := s.mem.number (pa e) (w / 8)
    let int (n : Nat) : Int := if r.tag.signed then (BitVec.ofNat w n).toInt else (n % 2 ^ w : Nat)
    let new (e : Nat) : Nat :=
      let v := k.pattern d r e
      let n := old e
      match op with
      | 0 => r.tag.addBits n v
      | 1 => if r.tag.isFloat then g.pack .rne ((g.value n).min (g.value v)) else if int v < int n then v else n
      | 2 => if r.tag.isFloat then g.pack .rne ((g.value n).max (g.value v)) else if int n < int v then v else n
      | 3 => n &&& v
      | 4 => n ||| v
      | 5 => n ^^^ v
      | _ => v
    k.names d r → k.names x rx → k.formatOk → f.enc = r.tag → r.tag ∈ [Tag.fp64, .fp32, .int32, .uint32] →
    op ≤ 6 → (r.tag.isFloat = true → op ∉ [3, 4, 5]) → rx.tag.isInt = true → rx.rows = r.rows → rx.ncols = r.ncols →
    k.plainS a → k.plainM mm → k.sound d r → k.sound x rx → s.dev.calm → k.batch = none → k.parked = none → k.pend = [] →
    k.fits (r.storage k.place.width + k.loadRows r) = true →
    k.noGen → (∀ e, live e → at_ e % (w / 8) = 0 ∧ s.sees .gather (pageOf (at_ e)) .atomic (pg (pageOf (at_ e))) ∧
      s.freeLine (lineOf (pa e))) →
    (∀ e y, live e → live y → e ≠ y → pa e ≠ pa y) →
    s.answers (.tatom d a x m p o) fun t =>
      (∀ e, live e → t.mem.number (pa e) (w / 8) = new e % 2 ^ w ∧
        (t.dev.blk.tile d).ver.elems[e]? = some (.bits (deliver r.tag (old e)))) ∧
      (∀ e, sel e → ¬ live e → (t.dev.blk.tile d).ver.elems[e]? = some (.bits 0)) ∧
      (∀ e, e < r.size → ¬ sel e → (t.dev.blk.tile d).ver.elems[e]? = some (.bits (k.pattern d r e))) ∧
      (∀ z, (∀ e, live e → z < pa e ∨ pa e + w / 8 ≤ z) → t.mem.read z = s.mem.read z) ∧
      { t.dev.blk.since k with t := k.t, csr := k.csr, ps := k.ps, m := k.m, again := k.again } = k ∧ k.wholeEnd t.dev.blk r.size k.startOver ∧
      (∀ q, q ≠ d → t.dev.blk.tile q = k.tile q) ∧ t.dev.blk.pc = k.pc + 4

/-! ## The tile store -/

/-- R112, R113, R252 to R259: MMA, MMAS and MMAV write the words of their region, K-group by K-group in FP32 or as
wrapped sums of products; MMAS expands the rows of a by the mask's bits, MMAV streams its second operand from memory.
It says where these complete: MMA, MMAS, MMAV. -/
def Obligations.MatrixProductResult : Prop :=
  ∀ (s : State) (d : Reg) (a b : TileNo) (m : MaskField) (c : BitVec 4) (x sb : BitVec 1) (p : PairNo)
    (ra rb : ShapeRec) (kg : Nat) (int : Bool) (pg : Nat → Leaf),
    let k := s.dev.blk
    let g := regionWord (k.sv d)
    let code := c.toNat
    let acc := decide (x = 1)
    let zero : Val := if int then .int 0 else .num (.zero false)
    let rowA (i : Nat) : List Val := (List.range ra.ncols).map fun j => ((k.vals a ra)[i * ra.ncols + j]?).getD zero
    let rowB (i : Nat) : List Val := (List.range rb.ncols).map fun j => ((k.vals b rb)[i * rb.ncols + j]?).getD zero
    let word (i j : Nat) (us vs : List Val) : AccWord :=
      let w := k.at g i j
      if int then
        { bits := BitVec.ofInt 32 ((if acc then w.bits.toInt else 0) +
            (List.zipWith (fun u v => u.toInt * v.toInt) us vs).sum), p := false }
      else
        { bits := BitVec.ofNat 32 (Fmt.single.pack .rne
            (accumulate kg (if acc then Fmt.single.value w.bits.toNat else .zero false) us vs)), p := false }
    regionOk (k.sv d) k.place.tsRows = true → k.plainS d → k.noGen → s.dev.unc.upsets = [] →
    (acc = true → ∀ i j, i < g.rows → j < g.cols → (k.at g i j).p = false) → k.names b rb → k.sound b rb →
    (k.names a ra → k.sound a ra → kGroup ra.tag rb.tag = some (kg, int) →
      code = 0 ∨ matrixTag code = ra.tag ∧ ra.tag = rb.tag → ra.rows = g.rows → rb.rows = g.cols →
      (ra.ncols = rb.ncols → k.plainM m → s.writesRegion (.mma d a b m c x) g (fun i _ => (k.rm_ m).bit i)
        fun i j => word i j (rowA i) (rowB j)) ∧
      (ra.ncols = 16 * ceilDiv rb.ncols 32 → k.plainM m → (k.rm_ m).n = g.rows * rb.ncols →
        let bit (i q : Nat) : Bool := (k.rm_ m).bit (i * rb.ncols + q)
        let before (i q : Nat) : Nat := ((List.range (q % 32)).filter fun z => bit i (q / 32 * 32 + z)).length
        (∀ i q, i < g.rows → q < rb.ncols → bit i q = true → before i q < 16) →
        s.writesRegion (.mmas d a b m c x) g (fun _ _ => true) fun i j =>
          word i j ((List.range rb.ncols).map fun q =>
            if bit i q then ((k.vals a ra)[i * ra.ncols + 16 * (q / 32) + before i q]?).getD zero else zero) (rowB j))) ∧
    (kGroup (matrixTag code) rb.tag = some (kg, int) → rb.rows = (if sb = 1 then g.rows else g.cols) →
      k.plainS (PairNo.lo p) → k.plainS (PairNo.hi p) → s.dev.calm → k.batch = none → k.waitsOn = none →
      k.stop = none → k.pend = [] → k.rpAddr ≠ k.pc ∨ k.rp = 0 →
      (k.csr.mfmt.toNat / 32 % 4 ≤ 1) →
      let f : Mfmt := { enc := matrixTag code, trail := k.csr.mfmt.toNat / 32 % 4 = 1, rm := .rne, sat := false }
      let at_ (i : Nat) : Nat := (((k.sv (PairNo.lo p)).toNat + (k.sv (PairNo.hi p)).toInt * i) % 2 ^ 64).toNat
      let n := if sb = 1 then g.cols else g.rows
      let streamed (i : Nat) : List Val := (List.range rb.ncols).map fun j =>
        let e := s.loaded pg f (f.source (at_ i) rb.ncols j)
        patValue f.enc e.scale e.pat
      (k.sv (PairNo.lo p)).toNat % f.enc.unit = 0 → (k.sv (PairNo.hi p)).toInt % f.enc.unit = 0 →
      (∀ i j, i < n → j < rb.ncols → s.reaches .matrix pg .read (f.source (at_ i) rb.ncols j)) →
      s.answers (.mmav d b p sb x c) fun t =>
        (∀ i j, i < g.rows → j < g.cols → t.dev.blk.at g i j =
          if sb = 1 then word i j (rowB i) (streamed j) else word i j (streamed i) (rowB j)) ∧
        (∀ n, (∀ i j, i < g.rows → j < g.cols → n ≠ 512 * (g.row + i) + g.col + j) → t.dev.blk.word n = k.word n) ∧
        { t.dev.blk.since k with acc := k.acc, rp := k.rp } = k ∧ t.dev.blk.rp = 0 ∧ t.dev.blk.pc = k.pc + 4 ∧
        s.sameData t)

/-- R249, R250, R260 to R262: AZERO, AMOV, TAMOV, ALD and AST move words between the tile store, tiles and memory. It
says where these complete: AZERO, AMOV, TAMOV, ALD, AST. -/
def Obligations.AccumulatorMoveResult : Prop :=
  ∀ (s : State) (d a b : Reg) (t : TileNo) (m : MaskField) (q : Rm) (z : BitVec 1) (r : ShapeRec) (pg : Nat → Leaf),
    let k := s.dev.blk
    let g := regionWord (k.sv d)
    let at_ (i j : Nat) : Nat := (((k.sv a).toNat + (k.sv b).toInt * i + 4 * j) % 2 ^ 64).toNat
    let pa (i j : Nat) : Nat := (pg (pageOf (at_ i j))).pa (at_ i j)
    let size := g.rows * g.cols
    let word (e : Nat) : AccWord := k.at g (e / g.cols) (e % g.cols)
    let value (e : Nat) : Val :=
      if r.tag.isInt then .int (word e).bits.toInt else .num (Fmt.single.value (word e).bits.toNat)
    let plain : Prop := ∀ i j, i < g.rows → j < g.cols → (k.at g i j).p = false
    let aligned : Prop := k.plainS a ∧ k.plainS b ∧ (k.sv a).toNat % 4 = 0 ∧ (k.sv b).toNat % 4 = 0
    regionOk (k.sv d) k.place.tsRows = true → k.plainS d → s.dev.unc.upsets = [] →
    s.writesRegion (.azero d) g (fun _ _ => true) (fun _ _ => { bits := 0, p := false }) ∧
    (k.names t r → r.rows = g.rows → r.ncols = g.cols → k.plainM m → k.sound t r →
      (k.room r → k.noGen → plain → r.tag.narrow = false → s.writesTile (.amov t d m q z) t r fun v =>
        ∀ e, e < r.size → v.elems[e]? = some (if (k.rm_ m).bit e then
          r.tag.packVal (Round.ofCode q.toNat) (z = 1) (value e) else .bits (k.pattern t r e))) ∧
      s.writesRegion (.tamov d t m) g (fun i j => (k.rm_ m).bit (i * g.cols + j)) (fun i j =>
        match ((k.vals t r)[i * g.cols + j]?).getD (.int 0) with
        | .int n => { bits := BitVec.ofInt 32 n, p := false }
        | v => { bits := BitVec.ofNat 32 (Fmt.single.pack .rne v.toNum), p := false })) ∧
    (aligned → k.waitsOn = none → s.dev.calm → k.pend = [] →
      (∀ i j, i < g.rows → j < g.cols → s.sees k.laneUnit (pageOf (at_ i j)) .read (pg (pageOf (at_ i j))) ∧
        s.ownLine (lineOf (pa i j))) →
      s.answers (.ald d a b) fun t => s.sameData t ∧ s.region t g (fun _ _ => true)
        (fun i j => { bits := BitVec.ofNat 32 (s.mem.number (pa i j) 4), p := false })) ∧
    (aligned → k.waitsOn = none → s.dev.link.reqs = [] → plain → s.dev.entriesOf k.place.firstSlice = 0 →
      (∀ i j, i < g.rows → j < g.cols → s.sees k.laneUnit (pageOf (at_ i j)) .write (pg (pageOf (at_ i j))) ∧
        s.ownLine (lineOf (pa i j))) →
      s.answers (.ast d a b) fun t =>
        { t.dev.blk.since k with pend := k.pend } = k ∧ t.dev.blk.pc = k.pc + 4 ∧ s.sameMemory t ∧
        ∃ es, t.dev.blk.pend = k.pend ++ es ∧
          (∀ p ∈ es, ∀ y ∈ p.places, ∃ i j, i < g.rows ∧ j < g.cols ∧ pa i j ≤ y ∧ y < pa i j + 4) ∧
          writesBytes es (· < size) 4 (fun e j => pa (e / g.cols) (e % g.cols) + j)
            (fun e j => (word e).bits.extractLsb' (8 * j) 8) (fun _ => k.place.firstSlice))

/-! ## Engines, cache, translation -/

/-- R47, R282, R283, R285, R286: COPY, COPYZ, COPYG and COPYX hand their operation to the engine of the core with
fewer commands and go on; COPYX sets MIGRATING and is PRIV at USER. R282, R283, R285, R286: a poisoned operand traps with
POISON_ADDR, and a misaligned completion word, a count that is too large, a COPYG descriptor that breaks its layout or lies on
a poisoned line, and a page that COPYX may not move trap with ENGINE_DESC. It says where these complete: COPY, COPYZ,
COPYG, COPYX. -/
def Obligations.EngineCommandResult : Prop :=
  ∀ (s : State) (a b : Reg) (c : PairNo) (sc : BitVec 3) (lc ld l : Leaf) (g : OpKind),
    let k := s.dev.blk
    let n := k.sv (PairNo.lo c)
    let cwVa := k.sv (PairNo.hi c)
    let e := s.dev.eng
    let one := s.dev.engineLoad k.place.core 0
    let two := s.dev.engineLoad k.place.core 1
    let op (kind : OpKind) : Op :=
      { num := e.nextOp, who := k.id, core := k.place.core, engine := if two < one then 1 else 0, kind := kind, done := 0,
        cw := lc.pa cwVa.toNat, cwVa := cwVa, scope := sc.toNat, level := k.ps.pl, pc := k.pc, batch := none,
        onePage := false, va := 0, bad := none, crumbs := [], node := none }
    let took (kind : OpKind) : State :=
      let eng : Engines := { e with ops := e.ops ++ [op kind], nextOp := e.nextOp + 1 }
      let dev : Dev := { s.dev with eng := eng }
      { s with dev := dev }
    let pair : Prop := k.plainS (PairNo.lo c) ∧ k.plainS (PairNo.hi c)
    let plain : Prop := k.plainS a ∧ k.plainS b ∧ pair
    let word : Prop := cwVa.toNat % 8 = 0 ∧ s.sees k.scalarUnit cwVa.toNat .atomic lc
    let free : Prop := one < 32 ∨ two < 32
    let desc := (k.sv b).toNat
    let line := lineOf (ld.pa desc)
    let listed : Prop := k.pend = [] ∧ s.dev.still ∧ desc % 128 + 32 ≤ 128 ∧ s.sees k.scalarUnit desc .read ld
    let kind := gatherKind (k.sv a) ((List.range 32).map fun j => s.mem.read (ld.pa desc + j)) n.toNat
    let refused : Prop := copyxBad l (k.sv a).toNat (k.sv b) n.toNat = true ∨ (s.mem.number l.entry 2).testBit 14 = true
    (plain → word → free → k.pend = [] → s.dev.link.reqs = [] → n.toNat < 2 ^ 40 →
      exec (.copy a b c sc) s = .next ((took (.copy (k.sv a) (k.sv b) n.toNat [])).commit true k (k.pc + 4)) ∧
      exec (.copyz a c sc) s = .next ((took (.zero (k.sv a) n.toNat)).commit true k (k.pc + 4))) ∧
    (plain → word → free → listed → n.toNat < 2 ^ 32 → s.ownLine line → kind = some g →
      s.answers (.copyg a b c sc) fun t =>
        t.dev.eng = (took g).dev.eng ∧ t.dev.blk.since k = k ∧ t.dev.blk.pc = k.pc + 4 ∧ s.sameData t) ∧
    (plain → word → free → k.pend = [] → s.dev.link.reqs = [] → k.ps.pl ≠ .user → (k.sv a).toNat < 2 ^ 48 →
      (Work.start s).cached k.space (k.sv a).toNat = some l → ¬ refused →
      let p := (k.sv b).extractLsb' 0 32
      s.answers (.copyx a b c sc) fun t =>
        t.dev.eng = (took (.move (k.sv a) l.entry l.base l.pl (hbmPa p n.toNat) p l.size l.compressed .check [])).dev.eng ∧
        (l.compressed = false → t.mem.read (l.entry + 1) = s.mem.read (l.entry + 1) ||| 0x40 ∧
          ∀ x, x ≠ l.entry + 1 → t.mem.read x = s.mem.read x) ∧
        (∀ x ∈ t.dev.unc.tlb, x.leaf.entry ≠ l.entry) ∧ k.sameFiles t.dev.blk ∧ t.dev.blk.pc = k.pc + 4) ∧
    (k.ps.pl = .user → s.traps (.copyx a b c sc) .priv) ∧
    (¬ plain → s.traps (.copy a b c sc) .poisonAddr ∧ s.traps (.copyg a b c sc) .poisonAddr ∧
      (k.ps.pl ≠ .user → s.traps (.copyx a b c sc) .poisonAddr)) ∧
    (¬ (k.plainS a ∧ pair) → s.traps (.copyz a c sc) .poisonAddr) ∧
    (plain → cwVa.toNat % 8 ≠ 0 → s.traps (.copy a b c sc) .engineDesc ∧ s.traps (.copyz a c sc) .engineDesc ∧
      s.traps (.copyg a b c sc) .engineDesc ∧ (k.ps.pl ≠ .user → s.traps (.copyx a b c sc) .engineDesc)) ∧
    (plain → word → 2 ^ 40 ≤ n.toNat → s.traps (.copy a b c sc) .engineDesc ∧ s.traps (.copyz a c sc) .engineDesc) ∧
    (plain → word → 2 ^ 32 ≤ n.toNat → s.traps (.copyg a b c sc) .engineDesc) ∧
    (plain → word → listed → n.toNat < 2 ^ 32 → (line + 1) * 128 ≤ 3 * 2 ^ 60 → metaState (s.tags.read line) = 0 →
      (s.tags.read line).getLsbD 15 = true ∨ kind = none → s.trapsCounted (.copyg a b c sc) .engineDesc) ∧
    (plain → word → k.ps.pl ≠ .user → (k.sv a).toNat < 2 ^ 48 → (Work.start s).cached k.space (k.sv a).toNat = some l →
      refused → s.traps (.copyx a b c sc) .engineDesc)

/-- R46, R283, R284, R286, R298, R370: a COPY without overlap and a COPYZ whose pages are there do their work and
count their completion word up; an operation that is to be abandoned leaves a record, and its word takes +1 with bit 63; a
COPYX whose lines are copied and of which no peer holds a copy stalls its old home, then switches the entry and clears
MIGRATING. That an owed increment is performed with the next step is the model's choice (log entry 4). It says where these
complete: ENGINE_COMPLETION, ENGINE_ABANDON, COPYX_SWITCH. -/
def Obligations.EngineWorkResult : Prop :=
  (∀ (s : State) (o : Op) (pg : Nat → Leaf),
    let sp : Space := { core := o.core, unit := o.unit, asid := o.who.asid, root := o.who.root, level := o.level }
    let pa (va : Nat) : Nat := (pg (pageOf va)).pa va
    let count := s.mem.number o.cw 8
    let there (va : Nat) (a : Access) : Prop :=
      s.holds sp o.level va a (pg (pageOf va)) ∧ s.ownLine (lineOf (pa va)) ∧
        (a = .write → s.openLine (lineOf (pa va)))
    let apart (x y n : Nat) : Prop := x + n ≤ y ∨ y + n ≤ x
    s.dev.eng.ops = [o] → o.batch = none → o.node = none →
    (s.dev.still → o.bad = none → o.done = 0 → s.openLine (lineOf o.cw) → count < 2 ^ 63 - 1 →
      (∀ (dst src : Word) (n : Nat), o.kind = .copy dst src n [] →
        dst.toNat + n ≤ 2 ^ 48 → src.toNat + n ≤ 2 ^ 48 → apart dst.toNat src.toNat n →
        (∀ j, j < n → there (dst.toNat + j) .write ∧ there (src.toNat + j) .read ∧
          (pa (dst.toNat + j) < o.cw ∨ o.cw + 8 ≤ pa (dst.toNat + j))) →
        (∀ i j, i < n → j < n → pa (dst.toNat + i) ≠ pa (src.toNat + j) ∧
          (i ≠ j → pa (dst.toNat + i) ≠ pa (dst.toNat + j))) →
        s.answers (.engineCompletion o.num) fun t =>
          (∀ j, j < n → t.mem.read (pa (dst.toNat + j)) = s.mem.read (pa (src.toNat + j))) ∧
          t.mem.number o.cw 8 = count + 1 ∧ t.dev.eng.ops = [] ∧ t.dev.blk = s.dev.blk ∧
          ∀ x, (∀ j, j < n → x ≠ pa (dst.toNat + j)) → x < o.cw ∨ o.cw + 8 ≤ x → t.mem.read x = s.mem.read x) ∧
      (∀ (dst : Word) (n : Nat), o.kind = .zero dst n → dst.toNat + n ≤ 2 ^ 48 →
        (∀ j, j < n → there (dst.toNat + j) .write ∧
          (pa (dst.toNat + j) < o.cw ∨ o.cw + 8 ≤ pa (dst.toNat + j))) →
        s.answers (.engineCompletion o.num) fun t =>
          (∀ j, j < n → t.mem.read (pa (dst.toNat + j)) = 0) ∧ t.mem.number o.cw 8 = count + 1 ∧ t.dev.eng.ops = [] ∧
          t.dev.blk = s.dev.blk)) ∧
    (∀ (r : Nat) (q : QueueDesc), o.bad = some r → s.dev.link.reqs = [] → s.dev.fq.held = [] → s.dev.eng.forwards = [] →
      (Work.start s).queueDesc (16 + o.who.fn) = some q →
      let sent := (Work.start s).ownLe q.control 8
      let slot := q.control + 0x200 + sent % q.slots * 384
      sent - s.mem.number (q.control + 128) 8 < q.slots → sent < 2 ^ 64 - 1 →
      s.answers (.engineAbandon o.num) fun t =>
        let now := Work.start t
        t.dev.eng.ops = [] ∧ t.dev.eng.owed = s.dev.eng.owed ++ [(o.who.key.lid, o.cw)] ∧
        now.ownLe q.control 8 = sent + 1 ∧ now.ownLe slot 1 = 3 ∧ now.ownLe (slot + 48) 1 = r % 256) ∧
    (∀ (va : Word) (entry oldPa : Nat) (oldPl : BitVec 32) (newPa : Nat) (newPl : BitVec 32) (n : Nat) (rc : List Nat),
      let kind (p : MovePhase) (rc : List Nat) : OpKind := .move va entry oldPa oldPl newPa newPl (128 * n) false p rc
      n ≤ o.done →
      (o.kind = kind .copying rc → s.answers (.copyxSwitch o.num) fun t => s.sameMemory t ∧
        t.dev = { s.dev with eng := { s.dev.eng with ops := [{ o with kind := kind .switching rc }] } } ∧
        ∀ i, i < n → t.dev.stalled (oldPa / 128 + i) = true) ∧
      (o.kind = kind .switching [] → Dev.calm { s.dev with eng := { s.dev.eng with ops := [] } } → oldPa ≠ newPa →
        (∀ i, i < n → metaState (s.tags.read (oldPa / 128 + i)) = 0) →
        let word := s.mem.number entry 2
        s.answers (.copyxSwitch o.num) fun t =>
          t.dev.eng.ops = [{ o with kind := kind .forwarding [] }] ∧
          t.dev.eng.forwards = [{ old := oldPa, new := newPa, size := 128 * n }] ∧
          t.mem.number entry 2 = word - word / 2 ^ 14 % 2 * 2 ^ 14 ∧
          t.mem.number (entry + 2) 6 = newPa % 2 ^ 42 / 65536 ∧ t.mem.number (entry + 8) 4 = newPl.toNat ∧
          ∀ x, x < entry ∨ entry + 12 ≤ x → t.mem.read x = s.mem.read x))) ∧
  (∀ (s : State) (lid cw : Nat), s.dev.eng.owed = [(lid, cw)] → s.dev.still → s.dev.lu.controls = [] → s.dev.fw.changed = none →
      s.dev.fw.generation % 2 = 0 → s.openLine (lineOf cw) → cw % 8 = 0 →
      s.tidy.mem.number cw 8 = bumpWord (s.mem.number cw 8) true ∧ s.tidy.dev.eng.owed = [])

/-- R233, R236, R288, R355: CPIN pins each line while its set has a way that is neither pinned nor held, CUNPIN and
CEVICT act on every line of the range, CPREF brings lines in at low priority; none changes a byte. That they ask for no right
of the page is the model's reading (log entry 46). TLBINV removes the translations that it names from every unit, and is PRIV
at USER. It says where these complete: CPIN, CUNPIN, CEVICT,
CPREF, TLBINV_PAGE, TLBINV_ASID, TLBINV_ALL. -/
def Obligations.CacheControlResult : Prop :=
  ∀ (s : State) (a b : Reg) (pg : Nat → Leaf),
    let k := s.dev.blk
    let va := (k.sv a).toNat
    let len := (k.sv b).toNat
    let at_ (i : Nat) : Nat := va / 128 * 128 + 128 * i
    let line (i : Nat) : Nat := lineOf ((pg (pageOf (at_ i))).pa (at_ i))
    let count := (va % 128 + len + 127) / 128
    let all : List Instr := [.cpin a b, .cunpin a b, .cevict a b, .cpref a b]
    let frame (t : State) : Prop := (∀ x, t.mem.read x = s.mem.read x) ∧ { t.dev.blk.since k with pc := k.pc } = k ∧
      t.dev.blk.pc = k.pc + 4
    let leaf (i : Nat) : Leaf := pg (pageOf (at_ i))
    let w := Work.start s
    let mates (i : Nat) : Nat := ((List.range count).filter fun j => w.sameSet (line i) (line j)).length
    let soft : Prop := ∀ x ∈ s.dev.unc.l2, x.packed = false
    let removed (i : Instr) (hit : TlbEntry → Prop) : Prop := s.answers i fun t =>
      (∀ x, x ∈ t.dev.unc.tlb ↔ x ∈ s.dev.unc.tlb ∧ ¬ hit x) ∧ frame t ∧ t.tags = s.tags
    (k.plainS a → k.plainS b → 1 ≤ len → len ≤ 2 ^ 30 → k.pend = [] → s.dev.eng.forwards = [] → at_ count ≤ 2 ^ 48 →
      (∀ i, i < count → (Work.start s).cached k.space (at_ i) = some (leaf i)) →
      (soft → s.answers (.cpin a b) fun t => frame t ∧ t.tags = s.tags ∧
        (∀ i, i < count → w.takenWays (line i) + mates i ≤ 16 → t.dev.resident (line i) fun x => x.pin = true) ∧
        (count = 1 → 16 ≤ w.takenWays (line 0) → (∀ x ∈ s.dev.unc.l2, x.line ≠ line 0) →
          t.dev.unc.l2 = s.dev.unc.l2)) ∧
      (s.answers (.cunpin a b) fun t => frame t ∧ t.tags = s.tags ∧
        ∀ i, i < count → ∀ x ∈ t.dev.unc.l2, x.line = line i → x.away = false → x.pin = false) ∧
      ((∀ i, i < count → (leaf i).compressed = false) → s.answers (.cevict a b) fun t => frame t ∧
        (∀ i, i < count → t.tags.read (line i) = s.tags.read (line i) &&& 0x9FFF ∧
          ∀ x ∈ t.dev.unc.l2, x.line = line i → x.pin = false ∧ x.low = false) ∧
        ∀ n, (∀ i, i < count → n ≠ line i) → t.tags.read n = s.tags.read n) ∧
      (soft → s.answers (.cpref a b) fun t => frame t ∧ t.tags = s.tags ∧
        ((∀ i, i < count → (leaf i).type = .device) → t.dev.unc.l2 = s.dev.unc.l2) ∧
        (∀ i, i < count → (leaf i).type ≠ .device →
          (w.waysOf (line i) false).length + mates i ≤ 16 ∨ count = 1 ∧ w.takenWays (line i) < 16 →
          t.dev.resident (line i) fun x => (∀ y ∈ s.dev.unc.l2, y.line ≠ line i) → x.low = true))) ∧
    (k.plainS a → k.plainS b → len = 0 → ∀ i ∈ all, exec i s = .next (s.goOn true)) ∧
    (k.plainS a → k.plainS b → 2 ^ 30 < len → ∀ i ∈ all, s.traps i .engineDesc) ∧
    ((k.rs a).poison ≠ none ∨ (k.rs b).poison ≠ none → ∀ i ∈ all, s.traps i .poisonAddr) ∧
    (k.ps.pl = .user → ∀ i ∈ [Instr.tlbinvPage a b, .tlbinvAsid b, .tlbinvAll], s.traps i .priv) ∧
    (k.ps.pl ≠ .user → k.pend = [] → s.dev.link.reqs = [] → s.dev.eng.ops = [] → s.dev.eng.graphs = [] →
      s.dev.eng.owed = [] → s.dev.eng.fills = [] →
      (∀ x ∈ s.dev.blocks, x.pend = [] ∧ ∀ q ∈ x.queues.toList, q.st ≠ .filling ∧ q.st ≠ .faulted) →
      (k.plainS a → k.plainS b → len < 2 ^ 16 → removed (.tlbinvPage a b) fun x =>
        x.asid = len ∧ x.base ≤ va ∧ va < x.base + x.leaf.size) ∧
      (k.plainS b → len < 2 ^ 16 → removed (.tlbinvAsid b) fun x => x.asid = len) ∧
      removed .tlbinvAll fun _ => True)

/-! ## Launches, queues, graphs -/

/-- R324, R326, R329: LAUNCH accepts a record that keeps the rules as a new launch of the issuing context, or gives
the code of the first rule that it breaks; s_d and the status word take the LAUNCHID or the code. The LAUNCHID is the smallest
number above those assigned before whose low 16 bits no launch in flight has. R337 to R339: SEND
begins one transfer and commits when it arrives, in the receiver's tile; RECV and RECVT take the version or wait,
RECVT until its limit; EVWAIT gives the word once it has its value or bit 63, and else waits. It says where these
complete: LAUNCH, SEND, RECV, RECVT, EVWAIT, TRANSFER_ARRIVAL. -/
def Obligations.LaunchAndCommunication : Prop :=
  (∀ (s : State) (d a : Reg) (lr lh ld ls : Leaf),
    let k := s.dev.blk
    let va := (k.sv a).toNat
    let bytes (l : Leaf) (x : Nat) : List Byte := (List.range 64).map fun j => s.mem.read (l.pa x + j)
    let rec_ := bytes lr va
    let r := launchRec rec_
    let hdr := bytes lh r.header
    let h := header hdr
    let ready (l : Leaf) (x : Nat) (a : Access) : Prop := s.sees k.scalarUnit x a l ∧ s.ownLine (lineOf (l.pa x))
    let done := if r.done = 0 then none else some (ld.pa r.done)
    let cls := max r.cls (((s.dev.launch k.id.key.lid).map (·.cls)).getD 0)
    let code := (Work.start s).rejectCode rec_ (some hdr) k.id.ctx
    let answer (v : Nat) (t : State) : Prop :=
      (d ≠ 0 → t.dev.blk.rs d = SReg.plain (BitVec.ofNat 64 v)) ∧ (∀ q, q ≠ d → t.dev.blk.rs q = k.rs q) ∧
      (r.status ≠ 0 → t.mem.number (ls.pa r.status) 8 = v % 2 ^ 64) ∧
      (∀ x, r.status = 0 ∨ x < ls.pa r.status ∨ ls.pa r.status + 8 ≤ x → t.mem.read x = s.mem.read x) ∧
      t.dev.blk.pc = k.pc + 4
    k.plainS a → va % 64 = 0 → s.dev.still → k.pend = [] → s.dev.lu.launches.length < Config.launchEntries →
    ready lr va .read → field rec_ 0 1 % 16 = 1 → r.header % 64 = 0 → ready lh r.header .read →
    (r.done ≠ 0 → s.sees k.scalarUnit r.done .atomic ld) →
    (r.status ≠ 0 → ready ls r.status .write ∧ r.status % 8 = 0 ∧ s.freeLine (lineOf (ls.pa r.status))) →
    let low (x : Nat) : Prop := ∃ l ∈ s.dev.lu.launches, l.lid % 65536 = x % 65536
    (code = none → s.answers (.launch d a) fun t => ∃ lid, s.dev.lu.nextLid ≤ lid ∧ ¬ low lid ∧
      (∀ x, s.dev.lu.nextLid ≤ x → x < lid → low x) ∧ t.dev.lu.nextLid = lid + 1 ∧ answer lid t ∧ t.dev.lu.launches = s.dev.lu.launches ++
      [{ lid := lid, ctx := k.id.ctx, fn := k.id.fn, cls := cls, budget := r.budget,
         eleft := if r.budget = 0 then BitVec.allOnes 64 else BitVec.ofNat 64 (r.budget * 1000), eused := 0, hdr := h,
         gangSize := r.gang, dimX := r.x, dimY := r.y, dimZ := r.z, coresident := r.coresident, notify := r.notify,
         done := done, since := s.dev.clock, nextGang := 0, skipped := [], saved := [], retired := 0, killed := false, waited := false,
         node := none }]) ∧
    (∀ c, code = some c → s.answers (.launch d a) fun t =>
      answer (2 ^ 63 + c) t ∧ t.dev.lu.launches = s.dev.lu.launches)) ∧
  (∀ (s : State) (d a : TileNo) (c e b : Reg) (p : PredReg) (o : Os) (r : ShapeRec) (v : Tile) (x : Transfer) (y : Block)
    (l : Leaf),
    let k := s.dev.blk
    let n := (k.sv b).toNat
    let now := s.dev.cycle k.place.core
    let sleeps (w : Wait) (until_ : Option Nat) : State :=
      let y : Block := { k with run := .waiting, wait := w, recvtUntil := until_ }
      let dev : Dev := { s.dev with blk := y }
      { s with dev := dev }
    let dest : BlockKey := { lid := k.id.key.lid, lin := k.id.gang * k.id.gangSize + n }
    let takes (t : State) : Prop :=
      (∀ e, e < r.size → ((t.dev.blk.tile d).ver.elements r)[e]? = (v.elements r)[e]?) ∧
      (t.dev.blk.tile d).inbox = none ∧ (∀ q, q ≠ d → t.dev.blk.tile q = k.tile q) ∧ t.dev.blk.s = k.s ∧
      t.dev.blk.pc = k.pc + 4 ∧ s.sameMemory t
    let va := (k.sv c).toNat
    let word := s.mem.number (l.pa va) 8
    (k.names a r → k.plainS b → n < k.id.gangSize → k.xfer = none → s.dev.canReceive dest d ((k.tile a).ver.sent r) = true →
      s.answers (.send d a b) fun t =>
        t.dev.blk.xfer = some { dest := dest, tile := d, ver := (k.tile a).ver.sent r } ∧ t.dev.blk.pc = k.pc ∧
        t.dev.blk.s = k.s ∧ t.dev.blk.p = k.p ∧ s.sameMemory t ∧
        (∀ q, (t.dev.blk.tile q).ver = (k.tile q).ver ∧ (t.dev.blk.tile q).inbox = (k.tile q).inbox) ∧
        ∀ z, s.dev.find dest = some z → ∃ u, t.dev.find dest = some u ∧
          (u.tile d).coming = ((k.tile a).ver.sent r).storage z.place.width ∧ (u.tile d).ver = (z.tile d).ver ∧
          ∀ q, q ≠ d → u.tile q = z.tile q) ∧
    (k.names a r → k.plainS b → k.id.gangSize ≤ n → s.traps (.send d a b) .gangIndex) ∧
    (k.xfer = some x → s.dev.find x.dest = some y → y.resident = true →
      s.answers (.transferArrival k.id.key) fun t =>
        t.dev.blk.xfer = none ∧ t.dev.blk.pc = k.pc + 4 ∧ t.dev.blk.s = k.s ∧ s.sameMemory t ∧
        ∃ z, t.dev.find x.dest = some z ∧ (z.tile x.tile).inbox = some x.ver ∧ (z.tile x.tile).coming = 0 ∧
          (z.tile x.tile).ver = (y.tile x.tile).ver ∧ ∀ q, q ≠ x.tile → z.tile q = y.tile q) ∧
    (k.names d r → (k.tile d).inbox = some v → v.tag = r.tag → v.rows = r.rows → v.cols = r.ncols →
      (v.empty = false → v.elems.length = r.size) →
      s.answers (.recv d) (fun t => takes t ∧ t.dev.blk.p = k.p) ∧
      (k.plainS b → n < 2 ^ 32 → s.answers (.recvt d b p) fun t => takes t ∧ t.dev.blk.recvtUntil = none ∧
        (t.dev.blk.rp_ p).val = true ∧ ∀ q, q ≠ p → t.dev.blk.rp_ q = k.rp_ q)) ∧
    (k.names d r → (k.tile d).inbox = none →
      exec (.recv d) s = .next (sleeps (.tile d) k.recvtUntil) ∧
      (k.plainS b → k.recvtUntil = none →
        (n = 0 → exec (.recvt d b p) s = .next
          (s.commit true { k.wp p (PReg.plain false) with recvtUntil := none } (k.pc + 4))) ∧
        (1 ≤ n → n < 2 ^ 32 →
          exec (.recvt d b p) s = .next (sleeps (.tileLimit d (now + n) p) (some (now + n)))) ∧
        (2 ^ 32 ≤ n → s.traps (.recvt d b p) .sysState))) ∧
    (k.plainS c → k.plainS b → va % 8 = 0 → n < 2 ^ 63 → s.dev.still → k.pend = [] → s.sees k.scalarUnit va .read l →
      (s.ownLine (lineOf (l.pa va)) →
        (2 ^ 63 ≤ word ∨ n ≤ word → s.answers (.evwait e c b o) fun t => s.readOnly t ∧
          t.dev.blk = (k.ws e (SReg.plain (BitVec.ofNat 64 word))).advance s.dev.clock (k.pc + 4)) ∧
        (word < 2 ^ 63 → word < n → s.answers (.evwait e c b o) fun t => s.readOnly t ∧
          t.dev.blk = { k with run := .waiting, wait := .word (l.pa va) word }))))

/-- R340 to R343: QFILL starts the fill of its queue, FILL_ENTRY puts the next entry into its slots and at the end
counts the completion word up, QPOP takes the oldest entry as d's version or waits. It says where these complete:
QFILL, QPOP, FILL_ENTRY. -/
def Obligations.StreamQueueResult : Prop :=
  ∀ (s : State) (d : TileNo) (a b : Reg) (c : PairNo) (sc : BitVec 3) (lc ld : Leaf) (pg : Nat → Leaf) (i : BitVec 2)
    (r : ShapeRec) (v : Tile) (rest : List Tile),
    let k := s.dev.blk
    let n := (k.sv (PairNo.lo c)).toNat
    let cwVa := k.sv (PairNo.hi c)
    let va := (k.sv a).toNat
    let bs : List Byte := (List.range 32).map fun j => s.mem.read (ld.pa va + j)
    let f (x y : Nat) : Nat := field bs x y
    let shape : Word := BitVec.ofNat 64 (f 0 8)
    let rq := recordOf shape 0
    let q := k.queue i.toNat
    let one := s.dev.engineLoad k.place.core 0
    let two := s.dev.engineLoad k.place.core 1
    let qr := recordOf q.shape 0
    let frame (t : State) : Prop := { t.dev.blk.since k with queues := k.queues } = k ∧
      (∀ j, j ≠ i.toNat → t.dev.blk.queue j = k.queue j) ∧ t.dev.others = s.dev.others
    let fm : Mfmt := { enc := qr.tag, trail := false, rm := .rne, sat := false }
    let src (e : Nat) : Source := fm.source (wrap64 (q.src.toNat + q.filled * q.stride.toNat +
      e / qr.ncols * qr.tag.rowBytes qr.ncols)) qr.ncols (e % qr.ncols)
    (k.plainS a → k.plainS b → k.plainS (PairNo.lo c) → k.plainS (PairNo.hi c) → cwVa.toNat % 8 = 0 →
      s.sees k.scalarUnit cwVa.toNat .atomic lc → va % 32 = 0 → s.sees k.scalarUnit va .read ld → s.ownLine (lineOf (ld.pa va)) → s.dev.still →
      k.pend = [] → streamDescOk bs = true → (k.queue (f 16 1)).st = .idle ∨ (k.queue (f 16 1)).st = .done →
      n < 2 ^ 32 → (k.sv b).toNat % rq.tag.unit = 0 → (n ≤ 1 ∨ f 8 8 % rq.tag.unit = 0) →
      (k.setQueue (f 16 1) StreamQueue.reset).fits (f 17 1 * rq.storage k.place.width) = true → one < 32 ∨ two < 32 →
      s.answers (.qfill a b c sc) fun t => s.readOnly t ∧ t.dev.blk = (k.setQueue (f 16 1)
        { StreamQueue.reset with
          st := .filling, desc := k.sv a, src := k.sv b, count := n, shape := shape, stride := BitVec.ofNat 64 (f 8 8),
          depth := f 17 1, cw := lc.pa cwVa.toNat, cwVa := cwVa, scope := sc.toNat, engine := if two < one then 1 else 0, pc := k.pc }).advance s.dev.clock (k.pc + 4)) ∧
    (q.st = .filling → s.dev.still → (q.count ≤ q.filled → s.freeLine (lineOf q.cw) →
        let old := s.mem.number q.cw 8
        s.answers (.fillEntry k.id.key i) fun t => frame t ∧ t.dev.blk.pc = k.pc ∧
          t.dev.blk.queue i.toNat = { q with st := .done } ∧
          t.mem.number q.cw 8 = (old + 1) % 2 ^ 63 + old / 2 ^ 63 * 2 ^ 63 ∧ s.onlyBytes t q.cw 8) ∧
      (q.filled < q.count → q.filled < q.popped + q.depth →
        (∀ e, e < qr.size → s.reaches (.copy q.engine) pg .read (src e)) → q.crumbs = [] →
        s.answers (.fillEntry k.id.key i) fun t => frame t ∧ t.dev.blk.pc = k.pc ∧ s.sameData t ∧
          ∃ w, t.dev.blk.queue i.toNat = { q with filled := q.filled + 1, slots := q.slots ++ [w] } ∧ w.tag = qr.tag ∧
            w.rows = qr.rows ∧ w.cols = qr.ncols ∧
            (qr.tag.narrow = false → ∀ e, e < qr.size → w.elems[e]? =
              some (.bits (deliver qr.tag (s.loaded pg fm (src e)).pat))))) ∧
    (k.names d r → k.plainS a → va = i.toNat → q.st ≠ .idle → q.popped ≠ q.count → qr.tag = r.tag → qr.rows = r.rows →
      qr.ncols = r.ncols → k.room r →
      (q.slots = v :: rest → s.answers (.qpop d a) fun t =>
        (v.elems.length = r.size → ∀ e, e < r.size → (t.dev.blk.tile d).ver.elems[e]? = v.elems[e]?) ∧
        t.dev.blk.queue i.toNat = { q with slots := rest, popped := q.popped + 1 } ∧
        { t.dev.blk.since k with queues := k.queues, t := k.t } = k ∧ (∀ x, x ≠ d → t.dev.blk.tile x = k.tile x) ∧
        t.dev.blk.pc = k.pc + 4 ∧ s.sameMemory t) ∧
      (q.slots = [] → q.st ≠ .abandoned → s.answers (.qpop d a) fun t =>
        t.dev.blk = { k with run := .waiting, wait := .entry i.toNat } ∧ s.sameMemory t)) ∧
    (k.names d r → k.plainS a → 4 ≤ va → s.traps (.qpop d a) .queueInvalid)

/-- R361 to R363: GNODE queues the 128 bytes of a fresh node, GLINK adds an edge at its homes, GSUBMIT hands a graph
to the walker and sets its nodes to state 1, shown for a graph of one node; what the rules forbid traps. It says where
these complete: GNODE, GLINK, GSUBMIT. -/
def Obligations.GraphInstructionResult : Prop :=
  ∀ (s : State) (a b : Reg) (sc : BitVec 3) (la lb : Leaf),
    let k := s.dev.blk
    let va := (k.sv a).toNat
    let vb := (k.sv b).toNat
    let pa := la.pa va
    let pb := lb.pa vb
    let at_ (p n : Nat) : List Byte := (List.range n).map fun j => s.mem.read (p + j)
    let p := node (at_ pa 128)
    let q := node (at_ pb 128)
    let both (l : Leaf) (v : Nat) : Prop := s.sees k.scalarUnit v .atomic l ∧ s.openLine (lineOf (l.pa v))
    k.plainS a → k.plainS b → s.dev.still → k.pend = [] → both la va →
    (va % 128 = 0 → vb % 32 = 0 → s.sees k.scalarUnit vb .read lb → s.ownLine (lineOf pb) → p.busy = false →
      nodeDescOk (at_ pb 32) = true → s.dev.entriesOf 16 + 8 ≤ s.dev.queueRoom 16 →
      s.answers (.gnode a b) fun t => s.readOnly t ∧ t.dev.blk = ({ k with pend := [
        { slice := 16, line := lineOf pa, poison := false, bypass := false,
          kind := .bytes ((List.range 128).map fun j => (pa + j,
            if j = 0 then s.mem.read pb else if 16 ≤ j ∧ j < 40 then s.mem.read (pb + (j - 8)) else 0)) }] } : Block).advance
          s.dev.clock (k.pc + 4)) ∧
    (va % 128 = 0 → vb % 128 = 0 → both lb vb → p.busy = false → q.busy = false → p.clean = true →
      q.clean = true → p.succs < 8 → q.preds ≠ 2 ^ 32 - 1 →
      s.answers (.glink a b) fun t =>
        t.mem.number (pa + 64 + 8 * p.succs) 8 = vb ∧ t.mem.number (pa + 1) 1 = p.succs + 1 ∧
        t.mem.number (pb + 4) 4 = q.preds + 1 ∧
        (∀ x, (x < pa + 64 + 8 * p.succs ∨ pa + 64 + 8 * p.succs + 8 ≤ x) → x ≠ pa + 1 → (x < pb + 4 ∨ pb + 8 ≤ x) →
          t.mem.read x = s.mem.read x) ∧
        k.sameFiles t.dev.blk ∧ t.dev.blk.pc = k.pc + 4) ∧
    (va % 128 = 0 → vb % 128 = 0 → both lb vb → p.busy = true ∨ q.busy = true ∨ p.clean = false ∨ q.clean = false ∨ 8 ≤ p.succs →
      s.trapsCounted (.glink a b) .graphInvalid) ∧
    (va % 128 = 0 → vb % 8 = 0 → s.sees k.scalarUnit vb .atomic lb → (s.dev.graphsOf (k.place.core / 8)) < 16 →
      p.busy = false → p.ok = true → p.succs = 0 → p.preds = 0 →
      s.answers (.gsubmit a b sc) fun t =>
        t.mem.number pa 1 = p.kind + 16 ∧ t.mem.number (pa + 8) 4 = 0 ∧
        (∀ x, x ≠ pa → (x < pa + 8 ∨ pa + 12 ≤ x) → t.mem.read x = s.mem.read x) ∧
        t.dev.eng.graphs = s.dev.eng.graphs ++
          [{ num := s.dev.eng.nextOp, who := k.id, cluster := k.place.core / 8,
             nodes := [{ va := va, next := [], started := false, ended := false, bad := false }], scope := sc.toNat,
             cw := pb, cwVa := k.sv b, level := k.ps.pl, pc := k.pc, abandoned := false, batch := none }] ∧
        t.dev.eng.nextOp = s.dev.eng.nextOp + 1 ∧ k.sameFiles t.dev.blk ∧ t.dev.blk.pc = k.pc + 4)

/-- R361, R364: a node without edges left starts in state 2 with its operation, ends in state 3 with one less on each
successor, and where its operation is abandoned leaves a record and state 4; the nodes of an abandoned graph that never
started take state 4, and a graph whose nodes are over counts its completion word up, with bit 63 where it was abandoned.
It says where these complete: NODE_START, NODE_DONE, NODE_ABANDON, GRAPH_COMPLETION. -/
def Obligations.GraphWalkerResult : Prop :=
  ∀ (s : State) (g : Graph) (i : Nat) (r : NodeRun) (pg : Nat → Leaf),
    let sp : Space := { core := s.dev.walkerCore g.cluster, unit := .walker, asid := g.who.asid, root := g.who.root,
                        level := g.level }
    let pa (va : Nat) : Nat := (pg (pageOf va)).pa va
    let there (va : Nat) : Prop :=
      s.holds sp g.level va .atomic (pg (pageOf va)) ∧ s.openLine (lineOf (pa va)) ∧ pa va % 128 = 0
    let n := node ((List.range 128).map fun j => s.mem.read (pa r.va + j))
    let w (x : Nat) : Word := BitVec.ofNat 64 x
    let e := s.dev.eng
    let frame (t : State) : Prop := t.dev.blk = s.dev.blk ∧ t.dev.others = s.dev.others
    e.graphs = [g] → g.batch = none → s.dev.still → (∀ o ∈ e.ops, ∀ l, markRecopy l o = o) →
    (g.nodes[i]? = some r → g.abandoned = false → there r.va →
      (r.started = false → s.dev.runningNodes g.cluster < 64 → n.remaining = 0 →
        (n.kind = 6 → s.answers (.nodeStart g.num i) fun t => t.mem.number (pa r.va) 1 = 38 ∧ t.dev.eng.ops = e.ops ∧
          t.dev.eng.graphs = [g.onNode i fun r => { r with started := true }] ∧ frame t) ∧
        (∀ core j kind, n.kind ≤ 2 → s.dev.pickCluster g.cluster = some (core, j) → n.p2 < 2 ^ 40 →
          (n.kind = 1 ∧ kind = .copy (w n.p0) (w n.p1) n.p2 [] ∨ n.kind = 2 ∧ kind = .zero (w n.p0) n.p2) →
          s.answers (.nodeStart g.num i) fun t => t.mem.number (pa r.va) 1 = n.kind + 32 ∧
            t.dev.eng.graphs = [g.onNode i fun r => { r with started := true }] ∧ frame t ∧
            t.dev.eng.ops = e.ops ++
              [{ num := e.nextOp, who := g.who, core := core, engine := j, kind := kind, done := 0, cw := g.cw,
                 cwVa := g.cwVa, scope := g.scope, level := g.level, pc := g.pc, batch := none, onePage := false, va := 0,
                 bad := none, crumbs := [], node := some (g.num, i) }])) ∧
      (r.started = true → r.ended = false → s.dev.nodeOp g.num i = none → n.kind < 16 →
        (∀ u ∈ r.next, there u ∧ pa u ≠ pa r.va ∧ 1 ≤ s.mem.number (pa u + 8) 4) → (r.next.map pa).Nodup →
        s.answers (.nodeDone g.num i) fun t =>
          t.mem.number (pa r.va) 1 = n.kind + 48 ∧
          (∀ u ∈ r.next, t.mem.number (pa u + 8) 4 = s.mem.number (pa u + 8) 4 - 1) ∧
          (∀ x, x ≠ pa r.va → (∀ u ∈ r.next, x < pa u + 8 ∨ pa u + 12 ≤ x) → t.mem.read x = s.mem.read x) ∧
          t.dev.eng.graphs = [g.onNode i fun r => { r with ended := true, bad := false }] ∧ frame t) ∧
      (∀ (o : Op) (c : Nat) (q : QueueDesc), s.dev.nodeOp g.num i = some o → o.bad = some c → s.dev.fq.held = [] →
        (Work.start s).queueDesc (16 + o.who.fn) = some q →
        let sent := s.mem.number q.control 8
        sent - s.mem.number (q.control + 128) 8 < q.slots → sent < 2 ^ 64 - 1 →
        pa r.va + 128 ≤ q.control ∨ q.control + 0x200 + 384 * q.slots ≤ pa r.va →
        s.answers (.nodeAbandon g.num i) fun t =>
          let now := Work.start t
          t.mem.number (pa r.va) 1 = n.kind + 64 ∧ now.ownLe q.control 8 = sent + 1 ∧
          now.ownLe (q.control + 0x200 + sent % q.slots * 384) 1 = 3 ∧ t.dev.nodeOp g.num i = none ∧
          t.dev.eng.graphs = [{ g.onNode i (fun r => { r with ended := true, bad := true }) with abandoned := true }] ∧
          frame t)) ∧
    (let left := g.nodes.filter fun x => !x.ended;
      g.abandoned = true → left ≠ [] → (∀ x ∈ left, x.started = false ∧ there x.va) → (left.map fun x => pa x.va).Nodup →
      s.answers (.graphCompletion g.num) fun t =>
        (∀ x ∈ left, t.mem.number (pa x.va) 1 = s.mem.number (pa x.va) 1 % 16 + 64) ∧
        (∀ a, (∀ x ∈ left, a ≠ pa x.va) → t.mem.read a = s.mem.read a) ∧ frame t ∧
        t.dev.eng.graphs = [{ g with nodes := g.nodes.map fun x => { x with ended := true } }]) ∧
    ((∀ x ∈ g.nodes, x.ended = true) → s.openLine (lineOf g.cw) →
      let old := s.mem.number g.cw 8
      s.answers (.graphCompletion g.num) fun t => t.dev.eng.graphs = [] ∧ frame t ∧ s.onlyBytes t g.cw 8 ∧
        t.mem.number g.cw 8 =
          (old + 1) % 2 ^ 63 + (if g.abandoned ∨ 2 ^ 63 ≤ old then 2 ^ 63 else 0))

/-! ## Events -/

/-- R33, R38, R44, R197, R199, R208, R221, R222, R259, R338: what each event does to the block that it names, here the one
that stands in the place of issue. That a new request finds a block which was restored in its notice handler there
already, its window starting anew, is the model's choice (log entry 90); so are the rest of a WAIT that notice and a save
keep (log entry 54), the place in the agenda that LOAD_REISSUE gives a block (log entry 64), that a block which could not
go on has had its turn (log entry 68), and that one block stands in the place of issue and the others beside it (log entry
74). An event that names another resident block does to it what it does to the block in the place of issue, and leaves
that one as it was. It says where these complete: BLOCK_PROMOTION, BLOCK_WAKE, WAIT_EXPIRY, RECVT_TIMEOUT, NOTICE_ENTRY,
NOTICE_WINDOW_EXPIRY, HARD_PREEMPTION, LOAD_REISSUE, LOAD_ARRIVAL, MMAV_STOP_POINT, YIELD_EXPIRY. -/
def Obligations.BlockEventResult : Prop :=
  (∀ (s : State) (t : TileNo) (q until_ pa old g : Nat) (p : PredReg) (bb : BlockBatch) (m : MmavStop),
    let k := s.dev.blk
    let key := k.id.key
    let now := s.dev.cycle k.place.core
    let be (b : Block) : State :=
      let dev : Dev := { s.dev with blk := b }
      { s with dev := dev }
    let woken : State := be { k with run := .ready, wait := .none }
    let wait : Wait := match k.wait with
      | .clocks t => .clocks t
      | _ => .none
    let live : Prop := k.run = .ready ∨ k.run = .waiting
    let idle : Prop := k.xfer = none ∧ k.stop = none ∧ k.batch = none ∧ k.fencing = false ∧ s.dev.link.reqs = []
    let saving : State := be { k with run := .saving, loop := none, flight := none, window := none, recvtUntil := none, wait := wait,
                                      preempt := k.preempt.map fun p => { p with resume := k.pc } }
    (k.run = .ready → k.lastIssue + 64 ≤ s.dev.clock → exec (.blockPromotion key) s = .next (be { k with promoted := true })) ∧
    (s.dev.clock < k.lastIssue + 64 → exec (.blockPromotion key) s = .next s) ∧
    (k.run = .waiting →
      (k.wait = .tile t → (k.tile t).inbox ≠ none → exec (.blockWake key) s = .next woken) ∧
      (k.wait = .tile t → (k.tile t).inbox = none → exec (.blockWake key) s = .next s) ∧
      (k.wait = .word pa old → s.dev.eng.forwards = [] → s.mem.number pa 8 ≠ old → exec (.blockWake key) s = .next woken) ∧
      (k.wait = .word pa old → s.dev.calm → s.ownLine (lineOf pa) → s.mem.number pa 8 = old →
        exec (.blockWake key) s = .next s) ∧
      (k.wait = .entry q → (k.queue q).slots ≠ [] → exec (.blockWake key) s = .next woken) ∧
      (k.wait = .clocks until_ →
        exec (.waitExpiry key) s = .next (if until_ ≤ now then woken else s)) ∧
      (k.wait = .tileLimit t until_ p → until_ ≤ now → (k.tile t).inbox = none → exec (.recvtTimeout key) s = .next
        (s.commit true { k.wp p (PReg.plain false) with run := .ready, wait := .none, recvtUntil := none } (k.pc + 4)))) ∧
    (k.yieldUntil ≤ s.dev.clock → exec (.yieldExpiry key) s = .next (be { k with yieldUntil := 0 })) ∧
    (live → idle → k.preempt ≠ none →
      (k.ps.notice = false → k.csr.noticepc ≠ 0 → k.window = none → exec (.noticeEntry key) s = .next
        (be { k with run := .ready, csr := { k.csr with nretpc := k.pc }, ps := { k.ps with notice := true },
                     pc := k.csr.noticepc, loop := none, flight := none, window := some (now + 20000), recvtUntil := none,
                     wait := wait })) ∧
      (k.ps.notice = true → k.csr.noticepc ≠ 0 → k.window = none → exec (.noticeEntry key) s = .next
        (be { k with window := some (now + 20000) })) ∧
      (k.window = some until_ → until_ ≤ now → exec (.noticeWindowExpiry key) s = .next saving) ∧
      (k.window = none → k.csr.noticepc = 0 → exec (.hardPreemption key) s = .next saving)) ∧
    (k.stop = some m → s.dev.unc.upsets = [] → (m.words.map (·.1)).Nodup → s.answers (.mmavStopPoint key) fun t =>
      t.dev.blk.stop = none ∧ t.dev.blk.rp = m.rows ∧ t.dev.blk.rpAddr = m.pc ∧
      (∀ x ∈ m.words, t.dev.blk.word x.1 = x.2) ∧
      (∀ n, (∀ x ∈ m.words, x.1 ≠ n) → t.dev.blk.word n = k.word n) ∧ s.sameMemory t) ∧
    (k.parked = some bb → k.reissuing = true → s.dev.answer bb.id ≠ none →
      s.answers (.loadReissue key) fun t => t.dev.agenda = s.dev.agenda ++ [.issue key] ∧ t.dev.blk = k ∧ s.sameMemory t) ∧
    ((k.tile t).ver.empty = false → 8 * g < (k.tile t).ver.rows → s.answers (.loadArrival key t g) fun u =>
      let v := (k.tile t).ver
      let w := (u.dev.blk.tile t).ver
      w.arrived = v.arrived ||| 2 ^ g ∧ v.progress ≤ w.progress ∧ w.elems = v.elems ∧
      (∀ n, 8 * n < v.rows + 8 → (∀ j, j < n → w.arrived.testBit j = true) → min v.rows (8 * n) ≤ w.progress) ∧
      { u.dev.blk with t := k.t } = k ∧ s.sameMemory u)) ∧
  (∀ (s : State) (b : Block) (t : TileNo) (g slice : Nat) (i : Instr),
    let k := s.dev.blk
    let key := b.id.key
    let others := s.dev.others.map fun x => if x.id.key = key then k else x
    let dev : Dev := { s.dev with blk := b, others := others }
    let swapped : State := { s with dev := dev }
    k.id.key ≠ key → s.dev.others.find? (·.id.key == key) = some b → (∀ x ∈ s.dev.others, x.id.key ≠ k.id.key) →
    i ∈ [.blockPromotion key, .blockWake key, .waitExpiry key, .yieldExpiry key, .recvtTimeout key, .noticeEntry key,
      .noticeWindowExpiry key, .hardPreemption key, .mmavStopPoint key, .loadReissue key, .loadArrival key t g,
      .writePerformed key slice] →
    ∃ u v, exec i s = .next u ∧ exec i swapped = .next v ∧ u.dev.find key = some v.dev.blk ∧ u.dev.blk = k ∧
      u.mem = v.mem ∧ u.tags = v.tags)

/-- R37, R220, R223, R335: SAVE_COMPLETE of a block in SAVING writes the member area, with the smallest share and the
state SAVING, the address to resume at and the scalars in it; once that stands, it writes the state SAVED as the last
of all, the gang's entry learns of the member and the place is free. A page that does not translate kills the block.
It says where these complete: SAVE_COMPLETE. -/
def Obligations.SaveResult : Prop :=
  ∀ (s : State) (p : Preempt) (l : Launch) (leaf : Leaf) (n : Nat),
    let k := s.dev.blk
    let area := p.area.toNat
    let pa := leaf.pa area
    let now := s.dev.cycle k.place.core
    let there (n : Nat) : Prop := area % 4096 = 0 ∧ area + n ≤ 2 ^ 48 ∧
      (∀ x, area ≤ x → x < area + n → (Work.start s).cached (k.spaceOf .save) x = some leaf) ∧ leaf.w = true ∧
      65536 ∣ leaf.size ∧ 65536 ∣ leaf.base ∧ area % leaf.size + n ≤ leaf.size ∧
      ∀ x, x < n → s.freeLine (lineOf (pa + x))
    let header (st : Nat) : Nat := 3 + 256 * k.wMin + 2 ^ 16 * st
    k.run = .saving → k.preempt = some p → s.dev.launch k.id.key.lid = some l → k.pend = [] → s.dev.still →
    s.dev.svc.stage ≠ .running → (∀ x ∈ s.dev.blocks, x.xfer.map (·.dest) ≠ some k.id.key) →
    (p.begun = false → (∀ x ∈ k.saveImage l.hdr p.area p.resume now, x.1 + x.2.length ≤ n) → there n →
      s.answers (.saveComplete k.id.key) fun t =>
        t.mem.number pa 8 = header 4 ∧ t.mem.number (pa + 8) 8 = p.resume.toNat ∧
        (∀ i : Fin 32, t.mem.number (pa + 64 + 16 * i) 8 = (k.rs (BitVec.ofNat 5 i)).val.toNat) ∧
        (∀ x, x < pa ∨ pa + n ≤ x → t.mem.read x = s.mem.read x) ∧
        t.dev.blk = { k with preempt := some { p with begun := true } } ∧ t.dev.others = s.dev.others ∧
        t.dev.lu = s.dev.lu) ∧
    (p.begun = true → there 8 → s.dev.abortPending k.id.key.lid k.id.gang = false →
      s.answers (.saveComplete k.id.key) fun t =>
        t.mem.number pa 8 = header 5 ∧ s.onlyBytes t pa 8 ∧ t.dev.blk = Block.none ∧ t.dev.others = s.dev.others ∧
        t.dev.launch k.id.key.lid = some { l with saved := l.saved.map fun x =>
          if x.gang = k.id.gang then { x with members := x.members ++ [k.id.member], since := s.dev.clock } else x }) ∧
    (2 ^ 48 ≤ area → area + 0x2000 < 2 ^ 64 → s.answers (.saveComplete k.id.key) fun t =>
      t.dev.blk.run = .retired ∧ t.dev.launch k.id.key.lid = some { l with retired := l.retired + 1, killed := true })

/-- R322 to R326, R330 to R334, R346: the launch unit reads counts and records, accepts or rejects them, places gangs,
acts on control records and completes launches; a context serves only the function that owns the queue (R381; how it is
held to that is the model's choice, log entry 99). That QUEUE_DESCRIPTOR_WRITE is an event of its own which the unit notices
(log entry 69) and that CANDIDATE_WAIT_EXPIRY names a place in the list of candidates (log entry 56) are the model's choices
too. It says where these complete: LAUNCH_COMPLETION, PRODUCER_COUNT_WRITE,
QUEUE_DESCRIPTOR_WRITE, LAUNCH_RECORD, PREEMPT_RECORD, RESTORE_RECORD, ABORT_RECORD, CANDIDATE_WAIT_EXPIRY,
PLACE_GANG. -/
def Obligations.LaunchUnitResult : Prop :=
  ∀ (s : State) (q e n a : Nat) (d : QueueDesc) (cons : Nat) (bs hb : List Byte) (l : Launch) (c : Context)
    (ps : List Place) (x : Candidate) (rest : List Candidate) (g : Nat),
    let w := Work.start s
    let u := s.dev.launchQueue q
    let made := s.mem.number d.control 8
    let used := w.ownLe (d.control + 128) 8
    let fits : Prop := used ≤ made ∧ made ≤ used + d.slots
    let r := launchRec bs
    let h := header hb
    let slot := d.control + 0x200 + cons % d.slots * 64
    let fn := ((w.context d.ctx).map (·.fn)).getD d.fn
    let v := controlRec bs
    let consumed (t : State) : Prop := (Work.start t).ownLe (d.control + 128) 8 = cons + 1 ∧
      (s.dev.direct → s.onlyBytes t (d.control + 128) 8)
    let low (x : Nat) : Prop := ∃ l ∈ s.dev.lu.launches, l.lid % 65536 = x % 65536
    let acts (gs : List Nat) (t : State) : Prop := consumed t ∧
      t.dev.lu.controls = s.dev.lu.controls ++ [{ kind := v.kind, lid := l.lid, gangs := gs, done := wordNamed v.done }]
    (q < 16 → w.queueDesc q = some d →
      (s.answers (.producerCountWrite q) fun t => (t.dev.launchQueue q).seen = made ∧
        ((t.dev.launchQueue q).stopped = true ↔ u.stopped = true ∨ ¬ fits) ∧
        ((∀ j, j < 16 → w.nextRecord j = none) → t.dev.lu.turn = 15)) ∧
      (w.badDesc q = false → s.answers (.queueDescriptorWrite q) fun t =>
        (t.dev.launchQueue q).seen = made ∧ (t.dev.launchQueue q).reported = false ∧
        ((t.dev.launchQueue q).stopped = true ↔ ¬ fits))) ∧
    (q < 16 → w.badDesc q = true → w.queueDesc 16 = none → s.answers (.queueDescriptorWrite q) fun t =>
      t.dev.launchQueue q = { u with stopped := false, reported := true } ∧ t.dev.lu.launches = s.dev.lu.launches ∧
        t.dev.blk = s.dev.blk) ∧
    (16 ≤ e → e < 81 → w.badDesc e = false → s.dev.fq.held = [] → exec (.queueDescriptorWrite e) s = .next s) ∧
    (w.nextRecord q = none → ∀ i ∈ [Instr.launchRecord q, .preemptRecord q, .restoreRecord q, .abortRecord q],
      exec i s = .next s) ∧
    (w.nextRecord q = some (d, cons, bs) → cons < 2 ^ 64 - 1 →
      (recordKind bs = 1 → s.dev.lu.launches.length < Config.launchEntries → w.badLine (lineOf slot) = none →
        w.hostHeader r.header = some hb → r.status = 0 → ∀ o, (w.consume q d cons).hostReject d bs (some hb) = o →
        (w.consume q d cons).context d.ctx = w.context d.ctx →
        (o = none → s.answers (.launchRecord q) fun t => consumed t ∧ ∃ lid, s.dev.lu.nextLid ≤ lid ∧ ¬ low lid ∧
          (∀ x, s.dev.lu.nextLid ≤ x → x < lid → low x) ∧ t.dev.lu.nextLid = lid + 1 ∧ t.dev.lu.launches = s.dev.lu.launches ++
          [{ lid := lid, ctx := d.ctx, fn := fn, cls := r.cls, budget := r.budget, eleft := energyLeft r.budget, eused := 0,
             hdr := h, gangSize := r.gang, dimX := r.x, dimY := r.y, dimZ := r.z, coresident := r.coresident,
             notify := r.notify, done := wordNamed r.done, since := s.dev.clock, nextGang := 0, skipped := [], saved := [], retired := 0, killed := false,
             waited := false, node := none }]) ∧
        (o ≠ none → s.answers (.launchRecord q) fun t => t.dev.lu.launches = s.dev.lu.launches)) ∧
      ((w.consume q d cons).dev.controlAccepted d bs = some l → s.dev.lu.launches = [l] → v.lid = l.lid →
        (recordKind bs = 2 →
          let gs := (v.named l).filter fun g => s.dev.gangResident l.lid g
          let asked : Preempt :=
            { area := memberArea v.area v.every s.dev.blk.id.gang l.gangSize s.dev.blk.id.member l.hdr, resume := 0,
              begun := false }
          s.answers (.preemptRecord q) fun t => acts gs t ∧
            (s.dev.blk.resident = true → s.dev.blk.id.key.lid = l.lid → s.dev.blk.id.gang ∈ gs →
              l.savedGang s.dev.blk.id.gang = none → s.dev.blk.preempt = none →
              s.dev.blk.run ≠ .saving → t.dev.blk = { s.dev.blk with preempt := some asked })) ∧
        (recordKind bs = 3 →
          let gs := (v.named l).filter fun g => s.dev.gangBound l g
          s.answers (.restoreRecord q) fun t => acts gs t ∧ t.dev.blk = s.dev.blk ∧
            t.dev.lu.launches = [{ l with saved := l.saved.map fun x =>
              if x.gang ∈ gs then { x with want := some v.share, area := v.area, whole := v.every, since := s.dev.clock }
              else x }]) ∧
        (recordKind bs = 4 → l.saved = [] → s.dev.eng.fills = [] → s.dev.others = [] → s.dev.blk.run = .retired →
          let new := (v.named l).filter l.created
          s.answers (.abortRecord q) fun t => acts (v.named l) t ∧
            t.dev.lu.launches = [{ l with skipped := l.skipped ++ new, retired := l.retired + new.length * l.gangSize,
                                          killed := l.killed || new != [] }])) ∧
      ((w.consume q d cons).dev.controlAccepted d bs = none → (∀ y, recordKind bs = y →
        (y = 2 → s.answers (.preemptRecord q) fun t => t.dev.lu.launches = s.dev.lu.launches ∧ t.dev.blk = s.dev.blk) ∧
        (y = 3 → s.answers (.restoreRecord q) fun t => t.dev.lu.launches = s.dev.lu.launches) ∧
        (y = 4 → s.answers (.abortRecord q) fun t => t.dev.lu.launches = s.dev.lu.launches)))) ∧
    (s.dev.candidates = [] → exec .placeGang s = .next s) ∧
    (s.dev.candidates = x :: rest → x.saved = none → s.dev.launch x.lid = some l → w.context l.ctx = some c →
      l.nextGangs = [g] → s.dev.placeGangs s.dev.places l.hdr l.gangSize [g] = some [(g, ps)] →
      s.answers .placeGang fun t =>
        t.dev.launch x.lid = some { l with nextGang := g + 1 } ∧
        (∃ news : List Block, t.dev.others = s.dev.others ++ news ∧ news.length = ps.length ∧
          ∀ m p, ps[m]? = some p → ∃ b : Block, news[m]? = some b ∧ b.id.key = { lid := l.lid, lin := g * l.gangSize + m } ∧
            b.place = p ∧ b.run = .ready ∧ b.pc = l.hdr.entry ∧ b.ps.pl = c.level ∧ b.csr.srseed = l.hdr.srseed ∧
            b.s = Vector.replicate 32 (SReg.plain 0) ∧ b.t = Vector.replicate 32 TileReg.reset ∧ b.acc = [] ∧
            b.scratch = []) ∧ t.dev.blk = s.dev.blk) ∧
    (s.dev.candidates[n]? = some x → x.saved = none → s.dev.launch x.lid = some l →
      s.answers (.candidateWaitExpiry n) fun t =>
        t.dev.launch x.lid = some { l with waited := l.waited || decide (l.since + 1000000 ≤ s.dev.clock) } ∧
        t.dev.blk = s.dev.blk ∧ s.sameMemory t) ∧
    (s.dev.candidates[n]? = some x → x.saved = some g → s.dev.launch x.lid = some l →
      s.answers (.candidateWaitExpiry n) fun t =>
        t.dev.launch x.lid = some { l with saved := l.saved.map fun y =>
          if y.gang = g then { y with waited := y.waited || decide (y.since + 1000000 ≤ s.dev.clock) } else y } ∧
        t.dev.blk = s.dev.blk ∧ s.sameMemory t) ∧
    (s.dev.launch n = some l → s.dev.finished l = true → l.notify = false → l.done = none →
      s.answers (.launchCompletion n) fun t => t.dev.launch n = none ∧ t.dev.blk = s.dev.blk ∧ s.sameMemory t) ∧
    (s.dev.launch n = some l → s.dev.finished l = true → l.notify = false → s.dev.still →
      l.done = some a → s.freeLine (lineOf a) →
      let old := s.mem.number a 8
      s.answers (.launchCompletion n) fun t => t.dev.launch n = none ∧ s.onlyBytes t a 8 ∧
        t.mem.number a 8 = (old + 1) % 2 ^ 63 + (if l.killed ∨ 2 ^ 63 ≤ old then 2 ^ 63 else 0)) ∧
    (s.dev.launch n = some l → s.dev.finished l = false → exec (.launchCompletion n) s = .next s)

/-- R215, R332, R333, R345, R374, R391: a charge counts against the budget and lowers the class where it is used up, a
thermal cap moves one step for the core whose sensors ask for it (above 95 degrees down, below 90 up), an answer reaches
the batch that it answers, and a held record takes the slot that the consumer freed. It says where these complete:
FAULT_ANSWER, ENERGY_CHARGE, THERMAL_CAP_CHANGE, FAULT_QUEUE_CONSUMER_COUNT_WRITE. -/
def Obligations.EnergyThermalPagingResult : Prop :=
  ∀ (s : State) (lid charge core lanes celsius f : Nat) (l : Launch) (q : QueueDesc) (b : Batch) (pa : Nat) (a : Answer)
    (h : HeldRec),
    let w := Work.start s
    let used := l.eused + BitVec.ofNat 64 charge
    let made := w.ownLe q.control 8
    let cap := (s.dev.core core).cap
    let steps : List Nat := [4, 8, 16, 32, 128]
    (s.dev.mayCharge core lid = false → exec (.energyCharge ⟨core, lid⟩ charge) s = .next s) ∧
    (s.dev.mayCharge core lid = true → s.dev.launch lid = some l → s.answers (.energyCharge ⟨core, lid⟩ charge) fun t =>
      t.dev.launch lid = some
        (if l.budget = 0 then { l with eused := used }
         else if l.eleft.toNat ≤ charge then
           { l with eused := used, eleft := BitVec.ofNat 64 (l.budget * 1000), cls := min (l.cls + 1) 7 }
         else { l with eused := used, eleft := l.eleft - BitVec.ofNat 64 charge }) ∧
      t.dev.blk = s.dev.blk ∧ s.sameMemory t) ∧
    (core < Config.cores → lanes ∈ steps →
      (95 < celsius ∧ lanes < cap ∧ ∀ n ∈ steps, n < cap → n ≤ lanes) ∨
      (celsius < 90 ∧ cap < lanes ∧ ∀ n ∈ steps, cap < n → lanes ≤ n) ∨
      (lanes = cap ∧ (95 < celsius ∧ cap = 4 ∨ celsius < 90 ∧ cap = 128)) →
      s.answers (.thermalCapChange core celsius) fun t =>
        t.dev.core core = { s.dev.core core with cap := lanes, celsius := celsius } ∧
        (∀ n, n ≠ core → t.dev.core n = s.dev.core n) ∧ t.dev.blk = s.dev.blk ∧
        (s.dev.direct → s.outside t (s.dev.inMirror core))) ∧
    (core < Config.cores → 90 ≤ celsius → celsius ≤ 95 → s.answers (.thermalCapChange core celsius) fun t =>
      t.dev.core core = { s.dev.core core with celsius := celsius } ∧
      (∀ n, n ≠ core → t.dev.core n = s.dev.core n) ∧ t.dev.blk = s.dev.blk ∧ s.sameMemory t) ∧
    (Config.cores ≤ core → exec (.thermalCapChange core celsius) s = .next s) ∧
    (w.queueDesc (16 + f) = some q →
      (s.dev.fq.batches = [b] → b.answer = none → b.record = some pa → b.queueFn = f →
        (∀ x ∈ s.dev.fq.queues, x.seen < s.mem.number (q.control + 256) 8) → 0 < s.mem.number (q.control + 256) 8 →
        s.mem.number pa 1 = 1 → s.mem.number (pa + 1) 1 = (match a with
          | .serviced => 1
          | .onePage => 2
          | .refused => 3
          | .unresolvable => 4) →
        s.answers (.faultAnswer f) fun t => t.dev.answer b.id = some a ∧ t.dev.blk = s.dev.blk ∧ s.sameMemory t) ∧
      (s.dev.fq.held = [h] → h.fn = f → made - s.mem.number (q.control + 128) 8 < q.slots → made < 2 ^ 64 - 1 →
        s.answers (.faultQueueConsumerCountWrite f) fun t =>
          t.dev.fq.held = [] ∧ (Work.start t).ownLe q.control 8 = made + 1 ∧ t.dev.blk = s.dev.blk ∧
          (s.dev.direct → s.onlyBytes t q.control (0x200 + 384 * q.slots))))

/-! ## Sloig Link -/

/-- R244, R386, R430: what the home does with RD_S, RD_X and UPG in each state of a line; what waits for other devices
is served once they have answered. UPG is answered with DATA (R430; the choice over R386's wording is log entry 59). That FWD_S
carries the requester as its source ID (log entry 28) and how the home learns the scope of a page (log entry 25) are the
model's choices. It says where these complete: RD_S, RD_X, UPG, DATA, INV_ACK. -/
def Obligations.HomeReadResult : Prop :=
  ∀ (s : State) (p q line tag own : Nat) (bs : List Byte) (x : Txn),
    let w := Work.start s
    let m := s.tags.read line
    let h := w.homeMeta line
    let st := metaState m
    let party := metaParty m
    let own_ (m : Msg) : Msg := { m with index := line, src := s.dev.fw.deviceId }
    let sent : Msg := own_ { plainMsg .data p tag line with data := w.bytes (line * 128) 128 }
    let spoilt : Msg := { sent with poison := true }
    let called (op : LinkOp) (d : Nat) : Msg := own_ (plainMsg op d s.dev.link.nextTag line)
    let taken : BitVec 16 := metaWith m 2 p &&& 0x9FFF#16
    let no : State → Prop := fun t => t.dev.link.txns = [] ∧ t.dev.link.queued = []
    let error (i : Instr) : Prop := s.dev.err.reg = 0 →
      s.sends i [spoilt] line (metaWith (h ||| 0x8000#16) 0 0) fun t => no t ∧ t.dev.err.seq = s.dev.err.seq + 1 ∧
        s.counts t 0x125 1
    p < 1024 → s.dev.calm → s.dev.link.queued = [] → s.grantable line →
    (st = 0 → s.sends (.rdS p line tag) [sent] line (metaWith h 1 p) no) ∧
    (st = 1 ∨ st = 3 → party = p → s.sends (.rdS p line tag) [sent] line m no) ∧
    (st = 3 → party ≠ p → s.sends (.rdS p line tag) [sent] line (metaWith h 4 (groupOf party ||| groupOf p)) no) ∧
    (st = 4 → s.sends (.rdS p line tag) [sent] line (metaWith h 4 (party ||| groupOf p)) no) ∧
    (st = 1 ∨ st = 2 ∨ st = 5 → party ≠ p → s.sends (.rdS p line tag)
      [{ plainMsg .fwdS party tag line with src := p, index := line }] line (metaWith h 5 party) no) ∧
    (st = 2 ∨ st = 5 → party = p → error (.rdS p line tag)) ∧
    (∀ i ∈ [Instr.rdX p line tag, .upg p line tag],
      (st = 0 → s.sends i [sent] line taken no) ∧
      (st = 1 ∨ st = 3 → party = p → s.sends i [sent] line taken no) ∧
      (st = 2 ∨ st = 5 → party = p → error i) ∧
      (w.remotes line true ≠ [] → ¬ (st ≠ 4 ∧ party = p) → s.sends i
        ((w.remotes line true).map (called (if st = 3 ∨ st = 4 then .inv else .recall))) line m fun t =>
          t.dev.link.txns = [{ line := line, kind := .rdX p tag, tag := s.dev.link.nextTag,
                               awaiting := w.remotes line true, wbFrom := none }])) ∧
    (x = { line := line, kind := .rdX p tag, tag := own, awaiting := [q], wbFrom := none } →
      let dev : Dev := { s.dev with link := { s.dev.link with txns := [x] } }
      let u : State := { s with dev := dev }
      (st = 3 ∨ st = 4 → u.sends (.invAck q own) [sent] line (metaWith (metaWith m 0 0) 2 p &&& 0x9FFF#16) no) ∧
      (st = 1 ∨ st = 2 ∨ st = 5 → bs.length = 128 → u.answers (.data q own bs false) fun t =>
        no t ∧ t.dev.link.outbox = s.dev.link.outbox ++ [{ sent with data := bs }] ∧
        metaState (t.tags.read line) = 2 ∧ metaParty (t.tags.read line) = p ∧
        (∀ j b, bs[j]? = some b → t.mem.read (line * 128 + j) = b) ∧ u.onlyBytes t (line * 128) 128) ∧
      (st = 2 ∨ st = 5 → party = q → u.sends (.invAck q own) [] line m fun t =>
        t.dev.link.txns = [{ x with wbFrom := some q }]))

/-- R281, R384, R386: what the home does with WB, UC_RD, UC_WR and ATOM. That UC_RD recalls an E holder too (log entry 26) and
that the WB of one is discarded with a record (log entry 27) are the model's readings. It says where these complete: WB, UC_RD,
UC_WR, ATOM. -/
def Obligations.HomeWriteResult : Prop :=
  ∀ (s : State) (p line tag mask op offset : Nat) (bs : List Byte) (bad wide : Bool) (v e : Word),
    let w := Work.start s
    let m := s.tags.read line
    let st := metaState m
    let party := metaParty m
    let n := if wide then 64 else 32
    let pa := line * 128 + offset
    let old := s.mem.number pa (n / 8)
    let own (m : Msg) : Msg := { m with index := line, src := s.dev.fw.deviceId }
    let reply (o : LinkOp) : Msg := own (plainMsg o p tag line)
    let sent : Msg := { reply .data with data := w.bytes (line * 128) 128 }
    let logged (t : State) : Prop := t.dev.err.seq = s.dev.err.seq + 1 ∧ s.counts t 0x125 1
    let at_ (t : State) (ms : List Msg) : Prop := t.dev.link.outbox = s.dev.link.outbox ++ ms ∧
      metaState (t.tags.read line) = 0 ∧ metaParty (t.tags.read line) = 0 ∧ (t.tags.read line).getLsbD 15 = bad ∧
      (∀ l, l ≠ line → t.tags.read l = s.tags.read l) ∧ t.dev.blk = s.dev.blk
    let dirty : Prop := (st = 2 ∨ st = 5) ∧ party = p
    p < 1024 → s.dev.calm → s.dev.link.queued = [] → s.grantable line → bs.length = 128 →
    (dirty → s.answers (.wb p line tag bs bad) fun t => at_ t [reply .ack] ∧
      (∀ j b, bs[j]? = some b → t.mem.read (line * 128 + j) = b) ∧ s.onlyBytes t (line * 128) 128) ∧
    (¬ dirty → s.dev.err.reg = 0 → s.sends (.wb p line tag bs bad) [reply .ack] line m logged) ∧
    (st = 0 ∨ st = 3 ∨ st = 4 → s.sends (.ucRd p line tag) [sent] line m fun t => t.dev.link.txns = []) ∧
    (st = 1 ∨ st = 2 ∨ st = 5 → s.sends (.ucRd p line tag)
      [own (plainMsg .recall party s.dev.link.nextTag line)] line m fun t =>
        t.dev.link.txns = [{ line := line, kind := .ucRd p tag, tag := s.dev.link.nextTag, awaiting := [party],
                             wbFrom := none }]) ∧
    (st = 0 → mask % 2 ^ 128 ≠ 0 → s.answers (.ucWr p line tag mask bs bad) fun t => at_ t [reply .ack] ∧
      (∀ j b, bs[j]? = some b → t.mem.read (line * 128 + j) = if mask.testBit j then b else s.mem.read (line * 128 + j)) ∧
      s.onlyBytes t (line * 128) 128) ∧
    (st = 0 → op ≤ 9 → offset < 128 → offset % (n / 8) = 0 → bad = false →
      let x := v.toNat % 2 ^ n
      let y := e.toNat % 2 ^ n
      let int (z : Nat) : Int := (BitVec.ofNat n z).toInt
      s.answers (.atom p line tag op wide offset v e false) fun t =>
        at_ t [{ reply .atomRsp with data := natLe 8 old ++ natLe 8 0 }] ∧ s.onlyBytes t pa (n / 8) ∧
        t.mem.number pa (n / 8) = match op with
          | 0 => (old + x) % 2 ^ n
          | 1 => old &&& x
          | 2 => old ||| x
          | 3 => old ^^^ x
          | 4 => if int x < int old then x else old
          | 5 => if int old < int x then x else old
          | 6 => min old x
          | 7 => max old x
          | 8 => x
          | _ => if old = y then x else old) ∧
    (13 ≤ op → s.dev.err.reg = 0 → s.sends (.atom p line tag op wide offset v e bad) [] line m logged)

/-- R286, R384, R386: what a holder does with INV, RECALL, FWD_S and RE_HOME, and what DATA, ACK, INV_ACK and ATOM_RSP
do for the request whose tag they echo. R25, R365, R383, R385, R387, R388: replay, training, lane loss, port loss and
lost messages; firmware reports the lanes of a port that changed. That a holder without a copy answers FWD_S with INV_ACK (log
entry 28), and what a lost message leaves and how a message that waits is told (log entry 30), are the model's choices; the
partner's port number after training is a free value (log entry 20). It says where these complete: INV, RECALL, FWD_S,
RE_HOME, DATA, ACK, INV_ACK, ATOM_RSP, REPLAY_REQUEST, TRAINING, LANE_FAILURE, MESSAGE_LOST, CXL_COMPLETION_TIMEOUT,
FLIT_CRC_FAILURE. -/
def Obligations.HolderAndPortResult : Prop :=
  (∀ (s : State) (p line tag dest new : Nat) (h : HeldLine) (r : Req) (bs : List Byte) (bad : Bool) (old : Word),
    let l := s.dev.link
    let sent (m : Msg) : Msg := { m with index := line, src := s.dev.fw.deviceId }
    let msg (o : LinkOp) (d : Nat) : Msg := sent (plainMsg o d tag line)
    let own : Msg := { msg .data p with poison := h.poison, data := h.data }
    let keep (i : Instr) (ms : List Msg) (held : List HeldLine) : Prop := s.answers i fun t =>
      t.dev.link.outbox = l.outbox ++ ms ∧ t.dev.link.held = held ∧ t.dev.blk = s.dev.blk ∧ s.sameMemory t
    p < 1024 → line < 2 ^ 42 → new < 2 ^ 42 →
    (l.held = [h] → h.home = p → h.line = line →
      (h.forwarded = [] → keep (.recall p line tag) [own] [] ∧ keep (.inv p line tag) [msg .invAck p] []) ∧
      (h.forwarded = [dest] → ∀ i ∈ [Instr.recall p line tag, .inv p line tag], s.answers i fun t =>
        t.dev.link.outbox = l.outbox ++ [sent (plainMsg .inv dest l.nextTag line)] ∧
        t.dev.link.held = [h] ∧ ∃ x, t.dev.link.txns = l.txns ++ [x] ∧ x.awaiting = [dest] ∧ x.tag = l.nextTag ∧
          (l.txns = [] → ∀ u, exec (.invAck dest l.nextTag) t = .next u → l.queued = [] → s.dev.calm →
            u.dev.link.held = [] ∧ u.dev.link.outbox = t.dev.link.outbox ++
              [if i = .recall p line tag then own else msg .invAck p])) ∧
      keep (.fwdS p line tag dest) [{ own with dest := dest }]
        [{ h with owner := true, forwarded := (h.forwarded ++ [dest]).eraseDups }] ∧
      keep (.reHome p line tag new) [msg .ack p] [{ h with line := new }]) ∧
    (l.held = [] →
      (∀ i ∈ [Instr.recall p line tag, .inv p line tag, .fwdS p line tag dest], keep i [msg .invAck p] []) ∧
      keep (.reHome p line tag new) [msg .ack p] []) ∧
    (l.reqs = [r] → l.txns = [] → r.tag = tag → r.peer = p → r.answer = none →
      (r.kind = .read → s.answers (.data p tag bs bad) fun t =>
        t.dev.link.reqs = [{ r with answer := some (bs, bad) }] ∧ s.sameMemory t) ∧
      (r.kind = .write → s.answers (.ack p tag) fun t => t.dev.link.reqs = [] ∧ s.sameMemory t) ∧
      (r.kind = .inv → s.answers (.invAck p tag) fun t =>
        t.dev.link.reqs = [{ r with answer := some ([], false) }] ∧ s.sameMemory t) ∧
      (r.kind = .atomic → s.answers (.atomRsp p tag old bad) fun t => s.sameMemory t ∧
        t.dev.link.reqs = (if r.elem = none ∧ r.expect = none then [] else [{ r with answer := some (natLe 8 old.toNat, bad) }]))) ∧
    (l.reqs = [] → l.txns = [] → ∀ i ∈ [Instr.data p tag bs bad, .ack p tag, .invAck p tag, .atomRsp p tag old bad],
      exec i s = .next s)) ∧
  (∀ (s : State) (n k seq version lanes partner tag line : Nat) (m : Msg) (r : Req),
    let w := Work.start s
    let l := s.dev.link
    let port (t : State) (i : Nat) : Port := t.dev.link.ports.toList.getD i Port.reset
    let p := port s n
    let only (i : Instr) (f : Port) : Prop := s.answers i fun t =>
      port t n = f ∧ (∀ j, j ≠ n → port t j = port s j) ∧ t.dev.blk = s.dev.blk ∧ s.sameMemory t
    let news (i : Instr) (f : Port) : Prop := s.answers i fun t =>
      port t n = f ∧ (∀ j, j ≠ n → port t j = port s j) ∧ t.dev.blk = s.dev.blk ∧ s.reported t
    let left := (p.seq + 4096 - (seq + 1) % 4096) % 4096
    let v := min version 2
    let width := if 4 ≤ lanes then 4 else if 2 ≤ lanes then 2 else if lanes = 1 ∧ v = 2 then 1 else 0
    let logged (t : State) : Prop := t.dev.err.seq = s.dev.err.seq + 1 ∧ s.counts t 0x125 1 ∧ s.sameMemory t
    n < 24 →
    (left ≤ p.replay.length → only (.replayRequest n seq)
      { p with acked := seq % 4096, replay := p.replay.drop (p.replay.length - left) }) ∧
    only (.flitCrcFailure n) { p with asked := p.asked + 1 } ∧
    (l.unsent = [] → ∃ at_, at_ < 24 ∧ news (.training n version lanes partner)
      (if version = 0 ∨ width = 0 then
         { p with lanes := 0, version := 0, partner := partner % 1024, partnerPort := at_, training := false }
       else { p with lanes := width, version := v, partner := partner % 1024, partnerPort := at_, training := true })) ∧
    (p.lanes = 0 → exec (.laneFailure n) s = .next s) ∧
    (p.lanes = 4 → news (.laneFailure n) { p with lanes := 2, training := true }) ∧
    (p.lanes = 2 → p.version = 2 → news (.laneFailure n) { p with lanes := 1, training := true }) ∧
    (p.lanes = 1 ∨ (p.lanes = 2 ∧ p.version = 1) →
      let down : Port := { p with lanes := 0, version := 0, training := false, replay := [] }
      ((∀ x ∈ p.replay, ∀ j ∈ w.livePorts x.dest, j = n) → s.answers (.laneFailure n) fun t =>
        port t n = down ∧ (∀ j, j ≠ n → port t j = port s j) ∧ t.dev.link.unsent = l.unsent ++ p.replay.map (·.parked s.dev.clock) ∧
        t.dev.blk = s.dev.blk ∧ s.reported t) ∧
      (p.replay = [m] → (w.livePorts m.dest).filter (· ≠ n) = [k] → s.answers (.laneFailure n) fun t =>
        port t n = down ∧ t.dev.link.unsent = l.unsent ∧ (port t k).seq = ((port s k).seq + 1) % 4096 ∧
        (port t k).replay = ((port s k).replay ++ [m.routed]).drop ((port s k).replay.length - 255) ∧
        (∀ j, j ≠ n → j ≠ k → port t j = port s j) ∧ t.dev.blk = s.dev.blk ∧ s.reported t)) ∧
    (l.unsent = [m] → m.tag = tag → m.since = some k → k + 10000000 ≤ s.dev.clock → s.dev.err.reg = 0 →
      (0x20 ≤ m.op → s.answers (.messageLost tag) fun t =>
        logged t ∧ t.dev.link.unsent = [] ∧ t.dev.link.reqs = l.reqs ∧ t.dev.link.txns = l.txns) ∧
      (m.op < 0x20 → l.reqs = [r] → r.tag = tag → r.peer = m.dest → r.answer = none →
      (r.kind = .write → s.answers (.messageLost tag) fun t =>
        logged t ∧ t.dev.link.unsent = [] ∧ t.dev.link.reqs = []) ∧
      (r.kind = .read → s.answers (.messageLost tag) fun t =>
        logged t ∧ t.dev.link.unsent = [] ∧ t.dev.link.reqs = [{ r with answer := some ([], true) }]))) ∧
    ((l.unsent = [] ∨ (l.unsent = [m] ∧ m.since = some k ∧ s.dev.clock < k + 10000000)) →
      exec (.messageLost tag) s = .next s) ∧
    (s.dev.err.reg = 0 → l.lost = [] → 2 ^ 60 ≤ line * 128 → line * 128 < 3 * 2 ^ 60 →
      s.answers (.cxlCompletionTimeout ⟨false, line⟩) (fun t => logged t ∧ t.dev.link.lost = [line]) ∧
      s.answers (.cxlCompletionTimeout ⟨true, line⟩) fun t => logged t ∧ t.dev.link.lost = []) ∧
    (line * 128 < 2 ^ 60 → ∀ write, exec (.cxlCompletionTimeout ⟨write, line⟩) s = .next s))

/-! ## Errors and service -/

/-- R40, R215, R216, R219, R347, R375: a replay is counted and logged; a lasting error, and a Marble mismatch that the
test confirms, fences the lane group and pre-empts the gang without notice. The save area of a gang without a request
is the model's free word (log entry 16); that the points past the lane groups name queues is the model's choice (log
entry 14). R217, R218, R219, R237, R242, R345, R375: drowsy rows, the debugger, scrub, the hot-page tracker and held
lines. Which rows a grant holds, which an instruction reads and what they show are free values (log entry 17). That every
resident member of the gang is pre-empted and the dispatcher restores it (log entry 15), how the tracker counts and learns the
scope of a page (log entry 18), and the units and rows that SCRUB names (log entry 19), are the model's choices. It says where
these complete: SOFT_ERROR_REPLAY, MARBLE_MISMATCH, DROWSY_ENTRY, SCRUB, HOT_PAGE_WINDOW, HELD_LINE_DRAIN,
DEBUGGER_READ. -/
def Obligations.ReplayResult : Prop :=
  (∀ (s : State) (l : Launch) (g : Nat),
    let k := s.dev.blk
    let core := k.place.core
    let key := k.id.key
    let counted : Dev := (s.dev.counted.filter fun x => x.1 == key).foldl (fun d x => d.count core x.2.1 x.2.2 k.id.ctx)
      (s.dev.count core 9 1 k.id.ctx)
    let logged (i : Instr) (cores : List (Nat × Core)) (n : Nat) : Prop := s.answers i fun t =>
      t.dev.blk = k ∧ t.dev.others = s.dev.others ∧ t.dev.cores = cores ∧
      s.counts t n 1 ∧ t.dev.err.seq = s.dev.err.seq + 1 ∧ s.sameMemory t
    let fenced (i : Instr) : Prop := s.answers i fun t =>
      t.dev.blk.run = .saving ∧ s.counts t 0x145 1 ∧
      (t.dev.core core).fenced = (s.dev.core core).fenced ||| BitVec.ofNat 16 (2 ^ g) ∧
      ∃ x : SavedGang, t.dev.launch key.lid = some { l with saved := l.saved ++ [x] } ∧ x.gang = k.id.gang ∧
        x.first = l.coresident ∧ x.want = some 0 ∧
        t.dev.blk.preempt = some { area := memberArea x.area false k.id.gang l.gangSize k.id.member l.hdr, resume := k.pc,
                                   begun := false }
    let alone : Prop := s.dev.others = [] ∧ s.dev.svc.stage ≠ .running ∧ s.dev.link.reqs = [] ∧ k.xfer = none ∧
      k.preempt = none ∧ k.stop = none ∧ k.fencing = false ∧ (k.run = .ready ∨ k.run = .waiting) ∧
      s.dev.launch key.lid = some l ∧
      l.savedGang k.id.gang = none
    (k.resident = true → k.place.holdsGroup g = true → s.dev.err.reg = 0 →
      logged (.softErrorReplay key false g true) counted.cores 0x135 ∧
      logged (.softErrorReplay key true g false) counted.cores 0x135 ∧
      (k.ps.marble = true → logged (.marbleMismatch key false g true) counted.cores 0x155 ∧
        logged (.marbleMismatch key true g false) counted.cores 0x135) ∧
      (alone → fenced (.softErrorReplay key true g true) ∧
        (k.ps.marble = true → fenced (.marbleMismatch key true g true)))) ∧
    (k.resident = true → 16 ≤ g → g < 33 → s.dev.err.reg = 0 → s.answers (.softErrorReplay key true g true) fun t =>
      (t.dev.core core).entriesOut = (s.dev.core core).entriesOut ++ [g - 16] ∧ t.dev.blk = k ∧
      s.counts t 0x145 1 ∧ s.sameMemory t) ∧
    (k.place.holdsGroup g = false → exec (.marbleMismatch key true g true) s = .next s ∧
      (g < 16 ∨ 33 ≤ g → exec (.softErrorReplay key true g true) s = .next s)) ∧
    (k.ps.marble = false → exec (.marbleMismatch key true g true) s = .next s)) ∧
  (∀ (s : State) (core part row level unit_ die slice : Nat) (u : Upset) (x : Nat × Nat)
    (q : QueueDesc),
    let w := Work.start s
    let c := s.dev.unc
    let exists_ : Prop := core < Config.cores ∧ part < 4 ∧ row < 1536
    let gone : Uncore := { c with drowsy := c.drowsy.filter (· ≠ (core, part, row)) }
    let pa := 65536 * x.1
    let used := c.rowUsed (core, part, row)
    let read (t : State) : Prop :=
      t.dev.unc = gone.usedRow (core, part, row) t.dev.clock ∧ t.dev.blk = s.dev.blk ∧ s.sameMemory t ∧
        t.dev.clock = s.dev.clock + (if (core, part, row) ∈ c.drowsy then 12 else 0)
    let awake : Dev := { s.dev with fresh := s.dev.fresh + 1 }
    let pinned (e : L2Line) : Prop := e.pin = true ∧ e.away = false ∧ e.line / 512 = x.1
    let made := w.ownLe q.control 8
    let hintRec := q.control + 0x200 + made % q.slots * 384
    let still (t : State) : Prop := t.dev.blk = s.dev.blk ∧ s.sameMemory t
    (exists_ → (core, part, row) ∉ c.drowsy → s.dev.lastRowUse core part + 16384 ≤ s.dev.clock → used + 16384 ≤ s.dev.clock →
      s.answers (.drowsyEntry core part row) fun t => t.dev.unc.drowsy = c.drowsy ++ [(core, part, row)] ∧ still t) ∧
    (¬ exists_ ∨ (core, part, row) ∈ c.drowsy ∨ s.dev.clock < used + 16384 →
      exec (.drowsyEntry core part row) s = .next { s with dev := awake }) ∧
    (exists_ → s.dev.rowsHeld core part = 0 → s.answers (.debuggerRead core part row) fun t =>
      t.dev.svc.read = some 0 ∧ t.dev.svc.gated = true ∧ read t) ∧
    (exists_ → s.dev.rowsHeld core part ≠ 0 → s.answers (.debuggerRead core part row) fun t =>
      (t.dev.svc.gated = true → t.dev.svc.read = some 0) ∧ read t) ∧
    (¬ exists_ → exec (.debuggerRead core part row) s = .next s) ∧
    (s.dev.scrubField level = 0 → exec (.scrub level unit_ row) s = .next s) ∧
    (s.dev.scrubField level ≠ 0 → level ≤ 4 → c.upsets = [u] → w.inUnit level unit_ row u = true → s.dev.err.reg = 0 →
      (u.fatal = false → s.answers (.scrub level unit_ row) fun t => t.dev.unc.upsets = [] ∧
        s.counts t (0x110 + level) 1 ∧ (level = 3 → s.counts t (0x200 + unit_) 1) ∧ still t) ∧
      (u.fatal = true → s.answers (.scrub level unit_ row) fun t => t.dev.unc.upsets = [u] ∧
        s.counts t (0x120 + level) 1 ∧ still t)) ∧
    (2 ≤ die ∨ s.dev.windowOver die = false → exec (.hotPageWindow die) s = .next s) ∧
    (die < 2 → s.dev.windowOver die = true →
      let ends (p : State → Prop) : Prop := s.answers (.hotPageWindow die) fun t =>
        t.dev.unc.misses = c.misses.filter (fun y => ¬ y ∈ w.dieMisses die) ∧ t.dev.windowOver die = false ∧
        t.dev.blk = s.dev.blk ∧ p t
      (w.dieMisses die = [] → ends fun t => s.sameMemory t) ∧
      (w.dieMisses die = [x] →
        (s.dev.onTheMove pa = true ∨ x.2 ≤ s.dev.fw.missLimit → ends fun t =>
          t.dev.ctrs = s.dev.ctrs ∧ t.dev.fq = s.dev.fq ∧ s.sameMemory t) ∧
        (s.dev.onTheMove pa = false → s.dev.fw.missLimit < x.2 →
          ((∃ y ∈ c.l2, pinned y) → w.onPage pa (·.domain) = true → ends fun t =>
            s.counts t (0x102 + die) 1 ∧ t.dev.fq = s.dev.fq ∧ s.sameMemory t) ∧
          ((∀ y ∈ c.l2, ¬ pinned y) ∨ w.onPage pa (·.domain) = false → s.dev.fq.held = [] →
            (w.queueDesc 16 = some q → made - s.mem.number (q.control + 128) 8 < q.slots → made < 2 ^ 64 - 1 →
              pa < 2 ^ 64 → x.2 < 2 ^ 64 → s.dev.direct → ends fun t =>
                let held (a n : Nat) : Nat := (Work.start t).ownLe a n
                held q.control 8 = made + 1 ∧ held hintRec 1 = 4 ∧ held (hintRec + 32) 8 = pa ∧
                held (hintRec + 40) 8 = x.2 ∧ held (hintRec + 48) 1 = plClass (plOfPa pa) + 1 ∧
                s.onlyBytes t q.control (0x200 + 384 * q.slots)) ∧
            (w.queueDesc 16 = none → ends fun t =>
              s.counts t 0x101 1 ∧ t.dev.fq = s.dev.fq ∧ s.sameMemory t))))) ∧
    ((∀ n ∈ c.starved, w.homeSlice (n * 128) ≠ slice) → exec (.heldLineDrain slice) s = .next s) ∧
    (c.starved = [row] → w.homeSlice (row * 128) = slice →
      let e := w.stackEntry (stackOfLine row)
      (s.mem.number (e + 4) 4 = 0 → s.mem.number (e + 16) 4 = 0 → exec (.heldLineDrain slice) s = .next s) ∧
      (s.mem.number (e + 4) 4 ≠ 0 → (∀ j, j < 128 → s.mem.read (row * 128 + j) = 0) →
        s.answers (.heldLineDrain slice) fun t => t.dev.unc.starved = [] ∧ t.dev.blk = s.dev.blk)))

/-- R25, R240, R247, R365, R375, R391: a failing channel takes a spare, else dies; a copy to a spare ends; refresh,
self-refresh and a router's power; a thermal trip, at a sensor of 110 degrees or more, loses every context. What a trip empties
and what stands (log entry 23), and when a generation is in use (log entry 24), are the model's choices. It says where these
complete:
PSEUDO_CHANNEL_FAILURE, SPARE_COPY_COMPLETE, SELF_REFRESH_ENTRY, ROUTER_POWER_DOWN, REFRESH, THERMAL_TRIP. -/
def Obligations.ChannelResult : Prop :=
  ∀ (s : State) (st ch errors core : Nat) (u : Upset) (line : Nat),
    let w := Work.start s
    let x := s.dev.stack st
    let only (i : Instr) (y : Stack) (p : State → Prop) : Prop := s.answers i fun t =>
      t.dev.stack st = y ∧ (∀ n, n ≠ st → t.dev.stack n = s.dev.stack n) ∧ t.dev.blk = s.dev.blk ∧ p t
    let same (t : State) : Prop := s.sameMemory t
    let live : Prop := st < 24 ∧ ch ∈ x.live x.gen
    let lost : List Nat := (x.live x.gen).filter (· ∉ ch :: x.dead x.gen)
    (live → ch ∉ x.dead x.gen → x.spares ≠ 0 → only (.pseudoChannelFailure st ch)
      { x with spares := x.spares - 1, copying := x.copying ++ [ch] } fun t =>
        s.counts t (0x320 + st) 1 ∧ s.reported t) ∧
    (live → ch ∉ x.dead x.gen → x.spares = 0 →
      (w.genUsed st (1 - x.gen) = true → only (.pseudoChannelFailure st ch)
        { x with dead0 := x.dead0 ++ [ch], dead1 := x.dead1 ++ [ch] } fun t => s.reported t) ∧
      (w.genUsed st (1 - x.gen) = false → x.gen = 0 → x.dead0 = [] → only (.pseudoChannelFailure st ch)
        { x with gen := 1, live1 := lost, dead0 := [ch], dead1 := [] } fun t => s.reported t) ∧
      (w.genUsed st (1 - x.gen) = false → x.gen = 1 → x.dead1 = [] → only (.pseudoChannelFailure st ch)
        { x with gen := 0, live0 := lost, dead1 := [ch], dead0 := [] } fun t => s.reported t)) ∧
    (¬ live ∨ ch ∈ x.dead x.gen → exec (.pseudoChannelFailure st ch) s = .next s) ∧
    (ch ∈ x.copying → s.dev.link.queued = [] → s.dev.unc.upsets = [] →
      only (.spareCopyComplete st ch) { x with copying := x.copying.erase ch } same) ∧
    (ch ∈ x.copying → s.dev.link.queued = [] → s.dev.unc.upsets = [u] → u.loc = .line line false → u.fatal = true →
      w.inUnit 4 st ch u = true →
      only (.spareCopyComplete st ch) { x with copying := x.copying.erase ch } fun t =>
        t.dev.unc.upsets = [] ∧ (t.tags.read line).getLsbD 15 = true ∧
        (∀ n, n ≠ line → t.tags.read n = s.tags.read n) ∧ ∀ a, t.mem.read a = s.mem.read a) ∧
    (ch ∉ x.copying → exec (.spareCopyComplete st ch) s = .next s) ∧
    (live → x.dead x.gen = [] → only (.refresh st ch errors) x fun t => same t ∧
      (s.dev.scrubField 4 = 0 → t.dev.counter (0x300 + st) = s.dev.counter (0x300 + st)) ∧
      (s.dev.scrubField 4 ≠ 0 → s.counts t (0x300 + st) errors)) ∧
    (¬ live → exec (.refresh st ch errors) s = .next s) ∧
    (live → only (.selfRefreshEntry st ch true) { x with asleep := x.asleep.filter (· ≠ ch) } same ∧
      (ch ∉ x.asleep → only (.selfRefreshEntry st ch false) { x with asleep := x.asleep ++ [ch] } same)) ∧
    (s.answers (.routerPowerDown ch false) fun t => same t ∧ t.dev.blk = s.dev.blk ∧
      t.dev.unc.routersDown = s.dev.unc.routersDown.filter (· ≠ ch) ++ [ch]) ∧
    (s.answers (.routerPowerDown ch true) fun t => same t ∧ t.dev.blk = s.dev.blk ∧
      t.dev.unc.routersDown = s.dev.unc.routersDown.filter (· ≠ ch)) ∧
    ((∀ n, n < Config.cores → (s.dev.core n).celsius < 110) → exec .thermalTrip s = .next s) ∧
    (core < Config.cores → 110 ≤ (s.dev.core core).celsius → s.answers .thermalTrip fun t => t.dev.svc = { s.dev.svc with stage := .tripped } ∧ t.dev.blk.resident = false ∧ t.dev.others = [] ∧
      t.dev.lu.launches = [] ∧ t.dev.eng.ops = [] ∧ t.dev.fw = s.dev.fw ∧ t.dev.cores = s.dev.cores ∧ same t)

/-- R219, R244, R379, R380: accesses of the host to its window, its snoops and the answers to the device's, and ERRLOG.
R217, R218, R333, R375, R391 to R395: boot, the report, updates, device reset and Praline. The firmware's own tables are
free values, and DEVICE_RESET's keeping of memory's bytes is the model's choice (log entries 20 and 3); so are the order
of the checks, their numbers and the list of the later stages (log entry 21), the order of the report's parts (log entry
22), and how BISnpInv and BIRsp are kept (log entry 31). It says where these complete: HOST_CXL_MEM_ACCESS, HOST_SNOOP,
BIRSP, ERRLOG_WRITE, BOOT, MANAGEMENT_REQUEST, ATTESTATION_REQUEST, FIRMWARE_UPDATE, DEVICE_RESET. -/
def Obligations.HostAndServiceResult : Prop :=
  (∀ (s : State) (line : Nat) (bs : List Byte) (v : Word),
    let w := Work.start s
    let l := s.dev.link
    let m := s.tags.read line
    let st := metaState m
    let pa := line * 128
    let wrote (t : State) : Prop := (∀ j b, bs[j]? = some b → t.mem.read (pa + j) = b) ∧
      s.onlyBytes t pa bs.length ∧ t.dev.blk = s.dev.blk
    (s.dev.svc.stage = .running → s.dev.calm → l.queued = [] → regionOf pa < 2 → w.inWindow line = true → st ≤ 5 → bs.length ≤ 128 → bs ≠ [] →
      (st = 0 ∨ st = 3 ∨ st = 4 → s.answers (.hostCxlMemAccess false pa bs) fun t =>
        t.dev.link.dropped = l.dropped.filter (· ≠ line) ∧ t.dev.blk = s.dev.blk ∧ s.sameMemory t) ∧
      (st = 0 → s.answers (.hostCxlMemAccess true pa bs) wrote) ∧
      (st = 1 ∨ st = 2 ∨ st = 5 → ∀ write, s.answers (.hostCxlMemAccess write pa bs) fun t =>
        t.dev.link.outbox = l.outbox ++
          [{ plainMsg .recall (metaParty m) l.nextTag (line % 2 ^ 42) with index := line % 2 ^ 42,
                                                                           src := s.dev.fw.deviceId }] ∧
        (∃ x, t.dev.link.txns = [x] ∧ x.line = line ∧ x.awaiting = [metaParty m]) ∧ s.sameMemory t)) ∧
    (w.inWindow line = false ∨ s.dev.svc.stage ≠ .running → exec (.hostCxlMemAccess false pa bs) s = .next s) ∧
    (s.dev.svc.stage = .running → regionOf pa = 2 → bs.length ≤ 128 → s.dev.calm → s.answers (.hostSnoop line bs) fun t =>
      wrote t ∧ (∀ x ∈ t.dev.unc.l2, x.line = line → x.held = false → x.valid = false) ∧
      (∀ x ∈ s.dev.unc.l2, x.line = line → x.away = false → x.pin = true →
        ∃ y ∈ t.dev.unc.l2, y.line = line ∧ y.pin = true) ∧
      ∀ x, x.line ≠ line → (x ∈ t.dev.unc.l2 ↔ x ∈ s.dev.unc.l2)) ∧
    (regionOf pa ≠ 2 ∨ s.dev.svc.stage ≠ .running → exec (.hostSnoop line bs) s = .next s) ∧
    (line ∈ l.snoops → l.queued = [] → s.answers (.birsp line) fun t =>
      t.dev.link.snoops = l.snoops.filter (· ≠ line) ∧ t.dev.link.dropped = l.dropped ++ [line] ∧
      t.dev.blk = s.dev.blk ∧ s.sameMemory t) ∧
    (line ∉ l.snoops → exec (.birsp line) s = .next s) ∧
    (s.answers (.errlogWrite v) fun t => t.dev.err.reg = v &&& 0xFFFFFFFFFFFFF01F#64 ∧ t.dev.err.next = 0 ∧
      t.dev.err.seq = s.dev.err.seq ∧ t.dev.blk = s.dev.blk ∧ s.sameMemory t)) ∧
  (∀ (s : State) (i : Image) (next : List Image) (nonce : List Byte) (v : Word) (n core lanes : Nat),
    let d := s.dev
    let v8 (x : Word) (j : Nat) : Nat := x.toNat / 2 ^ (8 * j) % 256
    let accepted (i : Image) : Prop :=
      let part (at_ n : Nat) : List Byte := (i.header.drop at_).take n
      let slot := leNat (part 4 1)
      i.header.length = 184 ∧ leNat (part 0 4) = 0x4B5A5331 ∧ leNat (part 16 8) = i.body.length ∧
      slot < 4 ∧ Config.sha512 (part 88 32) = Config.fusedHash slot ∧ Config.revokedSlots.getLsbD slot = false ∧
      Config.rollback ≤ leNat (part 8 8) ∧ Config.ed25519Verify (part 88 32) (part 0 120) (part 120 64) = true ∧
      Config.sha512 i.body = part 24 64
    let body : List Byte := nonce ++ d.svc.stages.flatten ++ natLe 8 Config.rollback ++
      natLe 1 (if d.fw.degraded then 1 else 0) ++ natLe 2 d.fw.deviceId ++ natLe 1 d.fw.domain ++ natLe 8 d.fw.generation
    let ready : Prop := d.svc.stage = .standby ∨ ∃ r, d.svc.stage = .recovery r
    let tables (t : State) : Prop :=
      let f := t.dev.fw
      let inMirrors (a : Nat) : Prop := ∃ c, c < Config.cores ∧ t.dev.inMirror c a
      let inRouting (a : Nat) : Prop := f.routing ≤ a ∧ a < f.routing + 4096
      let own := f.routing + 4 * f.deviceId
      f.deviceId < 1024 ∧ f.domain < 64 ∧ f.generation % 2 = 0 ∧ f.changed = none ∧ f.width ∈ [16, 8, 4] ∧ f.vfs ≤ 64 ∧
      f.expanders.length ≤ 8 ∧
      (∀ a, ¬ t.dev.inCapList a → ¬ inMirrors a → ¬ inRouting a →
        a < f.carveTable ∨ f.carveTable + carveBytes.length ≤ a → t.mem.read a = s.mem.read a) ∧
      (∀ j b, carveBytes[j]? = some b → ¬ t.dev.inCapList (f.carveTable + j) → ¬ inMirrors (f.carveTable + j) →
        ¬ inRouting (f.carveTable + j) → t.mem.read (f.carveTable + j) = b) ∧
      (∀ j, j < 4 → ¬ t.dev.inCapList (own + j) → ¬ inMirrors (own + j) → t.mem.read (own + j) = 0) ∧
      ∀ j b, t.dev.capList[j]? = some b → t.mem.read (f.capList + j) = b
    let gone : Prop :=
      0x200 ≤ n ∧ n ≤ 0x2FF ∧ d.fw.slices.testBit (n - 0x200) = false ∨
      0x300 ≤ n ∧ n ≤ 0x317 ∧ (d.stack (n - 0x300)).liveCount = 0 ∨
      0x320 ≤ n ∧ n ≤ 0x337 ∧ (d.stack (n - 0x320)).liveCount = 0
    let quiet (t : State) : Prop := t.dev.blk = d.blk ∧ t.dev.lu = d.lu ∧ s.sameMemory t
    let scrubbed (x : Word) (t : State) : Prop := (∀ j, j < 5 → t.dev.scrubField j =
      if v8 x j = 0 ∨ (10 ≤ v8 x j ∧ v8 x j ≤ 40) then v8 x j else d.scrubField j) ∧ quiet t
    (ready → (∀ x ∈ i :: next, accepted x) → s.answers (.boot ⟨i, next⟩) fun t =>
      t.dev.svc = { d.svc with stage := .running, stages := (i :: next).map fun x => Config.sha512 x.body } ∧
      t.dev.blk = d.blk ∧ t.dev.lu = d.lu ∧ (d.direct → tables t)) ∧
    (ready → (∃ x ∈ i :: next, ¬ accepted x) → s.answers (.boot ⟨i, next⟩) fun t => quiet t ∧ t.dev.fw = d.fw ∧
      ∃ r, r < 6 ∧ t.dev.svc = { d.svc with stage := .recovery r }) ∧
    (¬ ready → exec (.boot ⟨i, next⟩) s = .next s) ∧
    (d.svc.stage = .recovery n → s.answers (.managementRequest .readReason) fun t =>
      t.dev.svc.read = some (BitVec.ofNat 64 n) ∧ quiet t) ∧
    (accepted i → s.answers (.firmwareUpdate i) fun t =>
      t.dev.svc = { d.svc with staged := some i } ∧ t.dev.fw = d.fw ∧ quiet t) ∧
    (¬ accepted i → exec (.firmwareUpdate i) s = .next s) ∧
    (nonce.length = 32 → s.answers (.attestationRequest nonce) fun t =>
      t.dev.svc = { d.svc with report := some (body ++ Config.ed25519Sign body) } ∧ quiet t) ∧
    (nonce.length ≠ 32 → exec (.attestationRequest nonce) s = .next s) ∧
    (s.answers .deviceReset fun t =>
      (∀ l, t.tags.read l = 0) ∧ t.dev.blk = State.reset.dev.blk ∧
      t.dev.others = [] ∧ t.dev.lu = State.reset.dev.lu ∧ t.dev.eng = State.reset.dev.eng ∧
      t.dev.ctrs = State.reset.dev.ctrs ∧ t.dev.cores = State.reset.dev.cores ∧ t.dev.err = State.reset.dev.err ∧
      t.dev.scrubcfg = State.reset.dev.scrubcfg ∧ t.dev.logbase = State.reset.dev.logbase ∧
      (d.svc.staged = some i → t.dev.svc.stage = .running ∧ t.dev.svc.stages = Config.sha512 i.body :: d.svc.stages.drop 1 ∧ tables t) ∧
      (d.svc.staged = none → t.dev.svc.stages = d.svc.stages ∧
        (d.svc.stages = [] → t.dev.svc.stage = .standby ∧ ∀ a, t.mem.read a = s.mem.read a) ∧
        (d.svc.stages ≠ [] → t.dev.svc.stage = .running ∧ tables t))) ∧
    (s.answers (.managementRequest (.writeScrub v)) (scrubbed v)) ∧
    (s.answers (.managementRequest .highAltitude) fun t =>
      scrubbed 0x1C0A0D0E0E t ∧ t.dev.scrubcfg = 0x1C0A0D0E0E#64) ∧
    (s.answers (.managementRequest .readErrlog) fun t => t.dev.svc.read = some d.err.reg ∧ quiet t) ∧
    (n = 0x100 ∨ n = 0x101 ∨ (0x102 ≤ n ∧ n ≤ 0x105) ∨ (0x110 ≤ n ∧ n ≤ 0x166 ∧ n % 16 ≤ 6) ∨ (0x200 ≤ n ∧ n ≤ 0x2FF) ∨
      (0x300 ≤ n ∧ n ≤ 0x317) ∨ (0x320 ≤ n ∧ n ≤ 0x337) →
      (gone → s.answers (.managementRequest (.readCounter n)) fun t => t.dev.svc.read = some 0 ∧ quiet t) ∧
      (¬ gone → s.answers (.managementRequest (.readCounter n)) fun t => t.dev.svc.read = some (d.counter n) ∧ quiet t)) ∧
    (core < Config.cores → lanes ∈ [4, 8, 16, 32, 128] → s.answers (.managementRequest (.setCap core lanes)) fun t =>
      t.dev.core core = { d.core core with cap := lanes } ∧ (∀ c, c ≠ core → t.dev.core c = d.core c) ∧
      t.dev.blk = d.blk ∧ (d.direct → s.outside t (d.inMirror core))))
end

