-- ==== Sys2Proof/Laws/State.lean ====
section
/-! SUPPORT. What each update of a block, of the device and of the state does to each field: one lemma a field. -/
namespace Sys2Proof.Machine

/-! ## Block.ws -/

@[simp] theorem Block.ws_id (b : Block) (r : Reg) (v : SReg) : (b.ws r v).id = b.id := rfl
@[simp] theorem Block.ws_place (b : Block) (r : Reg) (v : SReg) : (b.ws r v).place = b.place := rfl
@[simp] theorem Block.ws_run (b : Block) (r : Reg) (v : SReg) : (b.ws r v).run = b.run := rfl
@[simp] theorem Block.ws_wait (b : Block) (r : Reg) (v : SReg) : (b.ws r v).wait = b.wait := rfl
@[simp] theorem Block.ws_ps (b : Block) (r : Reg) (v : SReg) : (b.ws r v).ps = b.ps := rfl
@[simp] theorem Block.ws_csr (b : Block) (r : Reg) (v : SReg) : (b.ws r v).csr = b.csr := rfl
@[simp] theorem Block.ws_pc (b : Block) (r : Reg) (v : SReg) : (b.ws r v).pc = b.pc := rfl
@[simp] theorem Block.ws_s (b : Block) (r : Reg) (v : SReg) : (b.ws r v).s = if r = 0 then b.s else b.s.set r.toNat v := rfl
@[simp] theorem Block.ws_p (b : Block) (r : Reg) (v : SReg) : (b.ws r v).p = b.p := rfl
@[simp] theorem Block.ws_m (b : Block) (r : Reg) (v : SReg) : (b.ws r v).m = b.m := rfl
@[simp] theorem Block.ws_h (b : Block) (r : Reg) (v : SReg) : (b.ws r v).h = b.h := rfl
@[simp] theorem Block.ws_t (b : Block) (r : Reg) (v : SReg) : (b.ws r v).t = b.t := rfl
@[simp] theorem Block.ws_scratch (b : Block) (r : Reg) (v : SReg) : (b.ws r v).scratch = b.scratch := rfl
@[simp] theorem Block.ws_acc (b : Block) (r : Reg) (v : SReg) : (b.ws r v).acc = b.acc := rfl
@[simp] theorem Block.ws_rp (b : Block) (r : Reg) (v : SReg) : (b.ws r v).rp = b.rp := rfl
@[simp] theorem Block.ws_rpAddr (b : Block) (r : Reg) (v : SReg) : (b.ws r v).rpAddr = b.rpAddr := rfl
@[simp] theorem Block.ws_stop (b : Block) (r : Reg) (v : SReg) : (b.ws r v).stop = b.stop := rfl
@[simp] theorem Block.ws_loop (b : Block) (r : Reg) (v : SReg) : (b.ws r v).loop = b.loop := rfl
@[simp] theorem Block.ws_batch (b : Block) (r : Reg) (v : SReg) : (b.ws r v).batch = b.batch := rfl
@[simp] theorem Block.ws_again (b : Block) (r : Reg) (v : SReg) : (b.ws r v).again = b.again := rfl
@[simp] theorem Block.ws_parked (b : Block) (r : Reg) (v : SReg) : (b.ws r v).parked = b.parked := rfl
@[simp] theorem Block.ws_fencing (b : Block) (r : Reg) (v : SReg) : (b.ws r v).fencing = b.fencing := rfl
@[simp] theorem Block.ws_xfer (b : Block) (r : Reg) (v : SReg) : (b.ws r v).xfer = b.xfer := rfl
@[simp] theorem Block.ws_pend (b : Block) (r : Reg) (v : SReg) : (b.ws r v).pend = b.pend := rfl
@[simp] theorem Block.ws_queues (b : Block) (r : Reg) (v : SReg) : (b.ws r v).queues = b.queues := rfl
@[simp] theorem Block.ws_area (b : Block) (r : Reg) (v : SReg) : (b.ws r v).area = b.area := rfl
@[simp] theorem Block.ws_window (b : Block) (r : Reg) (v : SReg) : (b.ws r v).window = b.window := rfl
@[simp] theorem Block.ws_preempt (b : Block) (r : Reg) (v : SReg) : (b.ws r v).preempt = b.preempt := rfl
@[simp] theorem Block.ws_recvtUntil (b : Block) (r : Reg) (v : SReg) : (b.ws r v).recvtUntil = b.recvtUntil := rfl
@[simp] theorem Block.ws_lastIssue (b : Block) (r : Reg) (v : SReg) : (b.ws r v).lastIssue = b.lastIssue := rfl
@[simp] theorem Block.ws_flight (b : Block) (r : Reg) (v : SReg) : (b.ws r v).flight = b.flight := rfl
@[simp] theorem Block.ws_promoted (b : Block) (r : Reg) (v : SReg) : (b.ws r v).promoted = b.promoted := rfl
@[simp] theorem Block.ws_yieldUntil (b : Block) (r : Reg) (v : SReg) : (b.ws r v).yieldUntil = b.yieldUntil := rfl

/-! ## Block.wp -/

@[simp] theorem Block.wp_id (b : Block) (r : PredReg) (v : PReg) : (b.wp r v).id = b.id := rfl
@[simp] theorem Block.wp_place (b : Block) (r : PredReg) (v : PReg) : (b.wp r v).place = b.place := rfl
@[simp] theorem Block.wp_run (b : Block) (r : PredReg) (v : PReg) : (b.wp r v).run = b.run := rfl
@[simp] theorem Block.wp_wait (b : Block) (r : PredReg) (v : PReg) : (b.wp r v).wait = b.wait := rfl
@[simp] theorem Block.wp_ps (b : Block) (r : PredReg) (v : PReg) : (b.wp r v).ps = b.ps := rfl
@[simp] theorem Block.wp_csr (b : Block) (r : PredReg) (v : PReg) : (b.wp r v).csr = b.csr := rfl
@[simp] theorem Block.wp_pc (b : Block) (r : PredReg) (v : PReg) : (b.wp r v).pc = b.pc := rfl
@[simp] theorem Block.wp_s (b : Block) (r : PredReg) (v : PReg) : (b.wp r v).s = b.s := rfl
@[simp] theorem Block.wp_p (b : Block) (r : PredReg) (v : PReg) : (b.wp r v).p = if r = 0 then b.p else b.p.set r.toNat v := rfl
@[simp] theorem Block.wp_m (b : Block) (r : PredReg) (v : PReg) : (b.wp r v).m = b.m := rfl
@[simp] theorem Block.wp_h (b : Block) (r : PredReg) (v : PReg) : (b.wp r v).h = b.h := rfl
@[simp] theorem Block.wp_t (b : Block) (r : PredReg) (v : PReg) : (b.wp r v).t = b.t := rfl
@[simp] theorem Block.wp_scratch (b : Block) (r : PredReg) (v : PReg) : (b.wp r v).scratch = b.scratch := rfl
@[simp] theorem Block.wp_acc (b : Block) (r : PredReg) (v : PReg) : (b.wp r v).acc = b.acc := rfl
@[simp] theorem Block.wp_rp (b : Block) (r : PredReg) (v : PReg) : (b.wp r v).rp = b.rp := rfl
@[simp] theorem Block.wp_rpAddr (b : Block) (r : PredReg) (v : PReg) : (b.wp r v).rpAddr = b.rpAddr := rfl
@[simp] theorem Block.wp_stop (b : Block) (r : PredReg) (v : PReg) : (b.wp r v).stop = b.stop := rfl
@[simp] theorem Block.wp_loop (b : Block) (r : PredReg) (v : PReg) : (b.wp r v).loop = b.loop := rfl
@[simp] theorem Block.wp_batch (b : Block) (r : PredReg) (v : PReg) : (b.wp r v).batch = b.batch := rfl
@[simp] theorem Block.wp_again (b : Block) (r : PredReg) (v : PReg) : (b.wp r v).again = b.again := rfl
@[simp] theorem Block.wp_parked (b : Block) (r : PredReg) (v : PReg) : (b.wp r v).parked = b.parked := rfl
@[simp] theorem Block.wp_fencing (b : Block) (r : PredReg) (v : PReg) : (b.wp r v).fencing = b.fencing := rfl
@[simp] theorem Block.wp_xfer (b : Block) (r : PredReg) (v : PReg) : (b.wp r v).xfer = b.xfer := rfl
@[simp] theorem Block.wp_pend (b : Block) (r : PredReg) (v : PReg) : (b.wp r v).pend = b.pend := rfl
@[simp] theorem Block.wp_queues (b : Block) (r : PredReg) (v : PReg) : (b.wp r v).queues = b.queues := rfl
@[simp] theorem Block.wp_area (b : Block) (r : PredReg) (v : PReg) : (b.wp r v).area = b.area := rfl
@[simp] theorem Block.wp_window (b : Block) (r : PredReg) (v : PReg) : (b.wp r v).window = b.window := rfl
@[simp] theorem Block.wp_preempt (b : Block) (r : PredReg) (v : PReg) : (b.wp r v).preempt = b.preempt := rfl
@[simp] theorem Block.wp_recvtUntil (b : Block) (r : PredReg) (v : PReg) : (b.wp r v).recvtUntil = b.recvtUntil := rfl
@[simp] theorem Block.wp_lastIssue (b : Block) (r : PredReg) (v : PReg) : (b.wp r v).lastIssue = b.lastIssue := rfl
@[simp] theorem Block.wp_flight (b : Block) (r : PredReg) (v : PReg) : (b.wp r v).flight = b.flight := rfl
@[simp] theorem Block.wp_promoted (b : Block) (r : PredReg) (v : PReg) : (b.wp r v).promoted = b.promoted := rfl
@[simp] theorem Block.wp_yieldUntil (b : Block) (r : PredReg) (v : PReg) : (b.wp r v).yieldUntil = b.yieldUntil := rfl

/-! ## Block.wm -/

@[simp] theorem Block.wm_id (b : Block) (r : MaskField) (v : MaskReg) : (b.wm r v).id = b.id := rfl
@[simp] theorem Block.wm_place (b : Block) (r : MaskField) (v : MaskReg) : (b.wm r v).place = b.place := rfl
@[simp] theorem Block.wm_run (b : Block) (r : MaskField) (v : MaskReg) : (b.wm r v).run = b.run := rfl
@[simp] theorem Block.wm_wait (b : Block) (r : MaskField) (v : MaskReg) : (b.wm r v).wait = b.wait := rfl
@[simp] theorem Block.wm_ps (b : Block) (r : MaskField) (v : MaskReg) : (b.wm r v).ps = b.ps := rfl
@[simp] theorem Block.wm_csr (b : Block) (r : MaskField) (v : MaskReg) : (b.wm r v).csr = b.csr := rfl
@[simp] theorem Block.wm_pc (b : Block) (r : MaskField) (v : MaskReg) : (b.wm r v).pc = b.pc := rfl
@[simp] theorem Block.wm_s (b : Block) (r : MaskField) (v : MaskReg) : (b.wm r v).s = b.s := rfl
@[simp] theorem Block.wm_p (b : Block) (r : MaskField) (v : MaskReg) : (b.wm r v).p = b.p := rfl
@[simp] theorem Block.wm_m (b : Block) (r : MaskField) (v : MaskReg) : (b.wm r v).m = if r = 0 then b.m else b.m.set r.toNat v := rfl
@[simp] theorem Block.wm_h (b : Block) (r : MaskField) (v : MaskReg) : (b.wm r v).h = b.h := rfl
@[simp] theorem Block.wm_t (b : Block) (r : MaskField) (v : MaskReg) : (b.wm r v).t = b.t := rfl
@[simp] theorem Block.wm_scratch (b : Block) (r : MaskField) (v : MaskReg) : (b.wm r v).scratch = b.scratch := rfl
@[simp] theorem Block.wm_acc (b : Block) (r : MaskField) (v : MaskReg) : (b.wm r v).acc = b.acc := rfl
@[simp] theorem Block.wm_rp (b : Block) (r : MaskField) (v : MaskReg) : (b.wm r v).rp = b.rp := rfl
@[simp] theorem Block.wm_rpAddr (b : Block) (r : MaskField) (v : MaskReg) : (b.wm r v).rpAddr = b.rpAddr := rfl
@[simp] theorem Block.wm_stop (b : Block) (r : MaskField) (v : MaskReg) : (b.wm r v).stop = b.stop := rfl
@[simp] theorem Block.wm_loop (b : Block) (r : MaskField) (v : MaskReg) : (b.wm r v).loop = b.loop := rfl
@[simp] theorem Block.wm_batch (b : Block) (r : MaskField) (v : MaskReg) : (b.wm r v).batch = b.batch := rfl
@[simp] theorem Block.wm_again (b : Block) (r : MaskField) (v : MaskReg) : (b.wm r v).again = b.again := rfl
@[simp] theorem Block.wm_parked (b : Block) (r : MaskField) (v : MaskReg) : (b.wm r v).parked = b.parked := rfl
@[simp] theorem Block.wm_fencing (b : Block) (r : MaskField) (v : MaskReg) : (b.wm r v).fencing = b.fencing := rfl
@[simp] theorem Block.wm_xfer (b : Block) (r : MaskField) (v : MaskReg) : (b.wm r v).xfer = b.xfer := rfl
@[simp] theorem Block.wm_pend (b : Block) (r : MaskField) (v : MaskReg) : (b.wm r v).pend = b.pend := rfl
@[simp] theorem Block.wm_queues (b : Block) (r : MaskField) (v : MaskReg) : (b.wm r v).queues = b.queues := rfl
@[simp] theorem Block.wm_area (b : Block) (r : MaskField) (v : MaskReg) : (b.wm r v).area = b.area := rfl
@[simp] theorem Block.wm_window (b : Block) (r : MaskField) (v : MaskReg) : (b.wm r v).window = b.window := rfl
@[simp] theorem Block.wm_preempt (b : Block) (r : MaskField) (v : MaskReg) : (b.wm r v).preempt = b.preempt := rfl
@[simp] theorem Block.wm_recvtUntil (b : Block) (r : MaskField) (v : MaskReg) : (b.wm r v).recvtUntil = b.recvtUntil := rfl
@[simp] theorem Block.wm_lastIssue (b : Block) (r : MaskField) (v : MaskReg) : (b.wm r v).lastIssue = b.lastIssue := rfl
@[simp] theorem Block.wm_flight (b : Block) (r : MaskField) (v : MaskReg) : (b.wm r v).flight = b.flight := rfl
@[simp] theorem Block.wm_promoted (b : Block) (r : MaskField) (v : MaskReg) : (b.wm r v).promoted = b.promoted := rfl
@[simp] theorem Block.wm_yieldUntil (b : Block) (r : MaskField) (v : MaskReg) : (b.wm r v).yieldUntil = b.yieldUntil := rfl

/-! ## Block.setTile -/

@[simp] theorem Block.setTile_id (b : Block) (t : TileNo) (v : TileReg) : (b.setTile t v).id = b.id := rfl
@[simp] theorem Block.setTile_place (b : Block) (t : TileNo) (v : TileReg) : (b.setTile t v).place = b.place := rfl
@[simp] theorem Block.setTile_run (b : Block) (t : TileNo) (v : TileReg) : (b.setTile t v).run = b.run := rfl
@[simp] theorem Block.setTile_wait (b : Block) (t : TileNo) (v : TileReg) : (b.setTile t v).wait = b.wait := rfl
@[simp] theorem Block.setTile_ps (b : Block) (t : TileNo) (v : TileReg) : (b.setTile t v).ps = b.ps := rfl
@[simp] theorem Block.setTile_csr (b : Block) (t : TileNo) (v : TileReg) : (b.setTile t v).csr = b.csr := rfl
@[simp] theorem Block.setTile_pc (b : Block) (t : TileNo) (v : TileReg) : (b.setTile t v).pc = b.pc := rfl
@[simp] theorem Block.setTile_s (b : Block) (t : TileNo) (v : TileReg) : (b.setTile t v).s = b.s := rfl
@[simp] theorem Block.setTile_p (b : Block) (t : TileNo) (v : TileReg) : (b.setTile t v).p = b.p := rfl
@[simp] theorem Block.setTile_m (b : Block) (t : TileNo) (v : TileReg) : (b.setTile t v).m = b.m := rfl
@[simp] theorem Block.setTile_h (b : Block) (t : TileNo) (v : TileReg) : (b.setTile t v).h = b.h := rfl
@[simp] theorem Block.setTile_t (b : Block) (t : TileNo) (v : TileReg) : (b.setTile t v).t = b.t.set t.toNat v := rfl
@[simp] theorem Block.setTile_scratch (b : Block) (t : TileNo) (v : TileReg) : (b.setTile t v).scratch = b.scratch := rfl
@[simp] theorem Block.setTile_acc (b : Block) (t : TileNo) (v : TileReg) : (b.setTile t v).acc = b.acc := rfl
@[simp] theorem Block.setTile_rp (b : Block) (t : TileNo) (v : TileReg) : (b.setTile t v).rp = b.rp := rfl
@[simp] theorem Block.setTile_rpAddr (b : Block) (t : TileNo) (v : TileReg) : (b.setTile t v).rpAddr = b.rpAddr := rfl
@[simp] theorem Block.setTile_stop (b : Block) (t : TileNo) (v : TileReg) : (b.setTile t v).stop = b.stop := rfl
@[simp] theorem Block.setTile_loop (b : Block) (t : TileNo) (v : TileReg) : (b.setTile t v).loop = b.loop := rfl
@[simp] theorem Block.setTile_batch (b : Block) (t : TileNo) (v : TileReg) : (b.setTile t v).batch = b.batch := rfl
@[simp] theorem Block.setTile_again (b : Block) (t : TileNo) (v : TileReg) : (b.setTile t v).again = b.again := rfl
@[simp] theorem Block.setTile_parked (b : Block) (t : TileNo) (v : TileReg) : (b.setTile t v).parked = b.parked := rfl
@[simp] theorem Block.setTile_fencing (b : Block) (t : TileNo) (v : TileReg) : (b.setTile t v).fencing = b.fencing := rfl
@[simp] theorem Block.setTile_xfer (b : Block) (t : TileNo) (v : TileReg) : (b.setTile t v).xfer = b.xfer := rfl
@[simp] theorem Block.setTile_pend (b : Block) (t : TileNo) (v : TileReg) : (b.setTile t v).pend = b.pend := rfl
@[simp] theorem Block.setTile_queues (b : Block) (t : TileNo) (v : TileReg) : (b.setTile t v).queues = b.queues := rfl
@[simp] theorem Block.setTile_area (b : Block) (t : TileNo) (v : TileReg) : (b.setTile t v).area = b.area := rfl
@[simp] theorem Block.setTile_window (b : Block) (t : TileNo) (v : TileReg) : (b.setTile t v).window = b.window := rfl
@[simp] theorem Block.setTile_preempt (b : Block) (t : TileNo) (v : TileReg) : (b.setTile t v).preempt = b.preempt := rfl
@[simp] theorem Block.setTile_recvtUntil (b : Block) (t : TileNo) (v : TileReg) : (b.setTile t v).recvtUntil = b.recvtUntil := rfl
@[simp] theorem Block.setTile_lastIssue (b : Block) (t : TileNo) (v : TileReg) : (b.setTile t v).lastIssue = b.lastIssue := rfl
@[simp] theorem Block.setTile_flight (b : Block) (t : TileNo) (v : TileReg) : (b.setTile t v).flight = b.flight := rfl
@[simp] theorem Block.setTile_promoted (b : Block) (t : TileNo) (v : TileReg) : (b.setTile t v).promoted = b.promoted := rfl
@[simp] theorem Block.setTile_yieldUntil (b : Block) (t : TileNo) (v : TileReg) : (b.setTile t v).yieldUntil = b.yieldUntil := rfl

/-! ## Block.setVer -/

@[simp] theorem Block.setVer_id (b : Block) (t : TileNo) (v : Tile) : (b.setVer t v).id = b.id := rfl
@[simp] theorem Block.setVer_place (b : Block) (t : TileNo) (v : Tile) : (b.setVer t v).place = b.place := rfl
@[simp] theorem Block.setVer_run (b : Block) (t : TileNo) (v : Tile) : (b.setVer t v).run = b.run := rfl
@[simp] theorem Block.setVer_wait (b : Block) (t : TileNo) (v : Tile) : (b.setVer t v).wait = b.wait := rfl
@[simp] theorem Block.setVer_ps (b : Block) (t : TileNo) (v : Tile) : (b.setVer t v).ps = b.ps := rfl
@[simp] theorem Block.setVer_csr (b : Block) (t : TileNo) (v : Tile) : (b.setVer t v).csr = b.csr := rfl
@[simp] theorem Block.setVer_pc (b : Block) (t : TileNo) (v : Tile) : (b.setVer t v).pc = b.pc := rfl
@[simp] theorem Block.setVer_s (b : Block) (t : TileNo) (v : Tile) : (b.setVer t v).s = b.s := rfl
@[simp] theorem Block.setVer_p (b : Block) (t : TileNo) (v : Tile) : (b.setVer t v).p = b.p := rfl
@[simp] theorem Block.setVer_m (b : Block) (t : TileNo) (v : Tile) : (b.setVer t v).m = b.m := rfl
@[simp] theorem Block.setVer_h (b : Block) (t : TileNo) (v : Tile) : (b.setVer t v).h = b.h := rfl
@[simp] theorem Block.setVer_t (b : Block) (t : TileNo) (v : Tile) : (b.setVer t v).t = b.t.set t.toNat { b.tile t with ver := v } := rfl
@[simp] theorem Block.setVer_scratch (b : Block) (t : TileNo) (v : Tile) : (b.setVer t v).scratch = b.scratch := rfl
@[simp] theorem Block.setVer_acc (b : Block) (t : TileNo) (v : Tile) : (b.setVer t v).acc = b.acc := rfl
@[simp] theorem Block.setVer_rp (b : Block) (t : TileNo) (v : Tile) : (b.setVer t v).rp = b.rp := rfl
@[simp] theorem Block.setVer_rpAddr (b : Block) (t : TileNo) (v : Tile) : (b.setVer t v).rpAddr = b.rpAddr := rfl
@[simp] theorem Block.setVer_stop (b : Block) (t : TileNo) (v : Tile) : (b.setVer t v).stop = b.stop := rfl
@[simp] theorem Block.setVer_loop (b : Block) (t : TileNo) (v : Tile) : (b.setVer t v).loop = b.loop := rfl
@[simp] theorem Block.setVer_batch (b : Block) (t : TileNo) (v : Tile) : (b.setVer t v).batch = b.batch := rfl
@[simp] theorem Block.setVer_again (b : Block) (t : TileNo) (v : Tile) : (b.setVer t v).again = b.again := rfl
@[simp] theorem Block.setVer_parked (b : Block) (t : TileNo) (v : Tile) : (b.setVer t v).parked = b.parked := rfl
@[simp] theorem Block.setVer_fencing (b : Block) (t : TileNo) (v : Tile) : (b.setVer t v).fencing = b.fencing := rfl
@[simp] theorem Block.setVer_xfer (b : Block) (t : TileNo) (v : Tile) : (b.setVer t v).xfer = b.xfer := rfl
@[simp] theorem Block.setVer_pend (b : Block) (t : TileNo) (v : Tile) : (b.setVer t v).pend = b.pend := rfl
@[simp] theorem Block.setVer_queues (b : Block) (t : TileNo) (v : Tile) : (b.setVer t v).queues = b.queues := rfl
@[simp] theorem Block.setVer_area (b : Block) (t : TileNo) (v : Tile) : (b.setVer t v).area = b.area := rfl
@[simp] theorem Block.setVer_window (b : Block) (t : TileNo) (v : Tile) : (b.setVer t v).window = b.window := rfl
@[simp] theorem Block.setVer_preempt (b : Block) (t : TileNo) (v : Tile) : (b.setVer t v).preempt = b.preempt := rfl
@[simp] theorem Block.setVer_recvtUntil (b : Block) (t : TileNo) (v : Tile) : (b.setVer t v).recvtUntil = b.recvtUntil := rfl
@[simp] theorem Block.setVer_lastIssue (b : Block) (t : TileNo) (v : Tile) : (b.setVer t v).lastIssue = b.lastIssue := rfl
@[simp] theorem Block.setVer_flight (b : Block) (t : TileNo) (v : Tile) : (b.setVer t v).flight = b.flight := rfl
@[simp] theorem Block.setVer_promoted (b : Block) (t : TileNo) (v : Tile) : (b.setVer t v).promoted = b.promoted := rfl
@[simp] theorem Block.setVer_yieldUntil (b : Block) (t : TileNo) (v : Tile) : (b.setVer t v).yieldUntil = b.yieldUntil := rfl

/-! ## Block.advance -/

@[simp] theorem Block.advance_id (b : Block) (c : Nat) (x : Word) : (b.advance c x).id = b.id := rfl
@[simp] theorem Block.advance_place (b : Block) (c : Nat) (x : Word) : (b.advance c x).place = b.place := rfl
@[simp] theorem Block.advance_run (b : Block) (c : Nat) (x : Word) : (b.advance c x).run = b.run := rfl
@[simp] theorem Block.advance_wait (b : Block) (c : Nat) (x : Word) : (b.advance c x).wait = b.wait := rfl
@[simp] theorem Block.advance_ps (b : Block) (c : Nat) (x : Word) : (b.advance c x).ps = b.ps := rfl
@[simp] theorem Block.advance_csr (b : Block) (c : Nat) (x : Word) : (b.advance c x).csr = b.csr := rfl
@[simp] theorem Block.advance_pc (b : Block) (c : Nat) (x : Word) : (b.advance c x).pc = x := rfl
@[simp] theorem Block.advance_s (b : Block) (c : Nat) (x : Word) : (b.advance c x).s = b.s := rfl
@[simp] theorem Block.advance_p (b : Block) (c : Nat) (x : Word) : (b.advance c x).p = b.p := rfl
@[simp] theorem Block.advance_m (b : Block) (c : Nat) (x : Word) : (b.advance c x).m = b.m := rfl
@[simp] theorem Block.advance_h (b : Block) (c : Nat) (x : Word) : (b.advance c x).h = b.h := rfl
@[simp] theorem Block.advance_t (b : Block) (c : Nat) (x : Word) : (b.advance c x).t = b.t := rfl
@[simp] theorem Block.advance_scratch (b : Block) (c : Nat) (x : Word) : (b.advance c x).scratch = b.scratch := rfl
@[simp] theorem Block.advance_acc (b : Block) (c : Nat) (x : Word) : (b.advance c x).acc = b.acc := rfl
@[simp] theorem Block.advance_rp (b : Block) (c : Nat) (x : Word) : (b.advance c x).rp = b.rp := rfl
@[simp] theorem Block.advance_rpAddr (b : Block) (c : Nat) (x : Word) : (b.advance c x).rpAddr = b.rpAddr := rfl
@[simp] theorem Block.advance_stop (b : Block) (c : Nat) (x : Word) : (b.advance c x).stop = b.stop := rfl
@[simp] theorem Block.advance_loop (b : Block) (c : Nat) (x : Word) : (b.advance c x).loop = b.loop := rfl
@[simp] theorem Block.advance_batch (b : Block) (c : Nat) (x : Word) : (b.advance c x).batch = b.batch := rfl
@[simp] theorem Block.advance_again (b : Block) (c : Nat) (x : Word) : (b.advance c x).again = b.again := rfl
@[simp] theorem Block.advance_parked (b : Block) (c : Nat) (x : Word) : (b.advance c x).parked = b.parked := rfl
@[simp] theorem Block.advance_fencing (b : Block) (c : Nat) (x : Word) : (b.advance c x).fencing = false := rfl
@[simp] theorem Block.advance_xfer (b : Block) (c : Nat) (x : Word) : (b.advance c x).xfer = b.xfer := rfl
@[simp] theorem Block.advance_pend (b : Block) (c : Nat) (x : Word) : (b.advance c x).pend = b.pend := rfl
@[simp] theorem Block.advance_queues (b : Block) (c : Nat) (x : Word) : (b.advance c x).queues = b.queues := rfl
@[simp] theorem Block.advance_area (b : Block) (c : Nat) (x : Word) : (b.advance c x).area = b.area := rfl
@[simp] theorem Block.advance_window (b : Block) (c : Nat) (x : Word) : (b.advance c x).window = b.window := rfl
@[simp] theorem Block.advance_preempt (b : Block) (c : Nat) (x : Word) : (b.advance c x).preempt = b.preempt := rfl
@[simp] theorem Block.advance_recvtUntil (b : Block) (c : Nat) (x : Word) : (b.advance c x).recvtUntil = b.recvtUntil := rfl
@[simp] theorem Block.advance_lastIssue (b : Block) (c : Nat) (x : Word) : (b.advance c x).lastIssue = c := rfl
@[simp] theorem Block.advance_flight (b : Block) (c : Nat) (x : Word) : (b.advance c x).flight = .none := rfl
@[simp] theorem Block.advance_promoted (b : Block) (c : Nat) (x : Word) : (b.advance c x).promoted = false := rfl
@[simp] theorem Block.advance_yieldUntil (b : Block) (c : Nat) (x : Word) : (b.advance c x).yieldUntil = b.yieldUntil := rfl

/-! ## Dev.commit -/

@[simp] theorem Dev.commit_blk (d : Dev) (tile : Bool) (b : Block) (pc : Word) :
    (d.commit tile b pc).blk = b.advance d.clock pc := by cases tile <;> rfl
@[simp] theorem Dev.commit_others (d : Dev) (tile : Bool) (b : Block) (pc : Word) :
    (d.commit tile b pc).others = d.others := by cases tile <;> rfl
@[simp] theorem Dev.commit_agenda (d : Dev) (tile : Bool) (b : Block) (pc : Word) :
    (d.commit tile b pc).agenda = d.agenda := by cases tile <;> rfl
@[simp] theorem Dev.commit_clock (d : Dev) (tile : Bool) (b : Block) (pc : Word) :
    (d.commit tile b pc).clock = d.clock := by cases tile <;> rfl
@[simp] theorem Dev.commit_issues (d : Dev) (tile : Bool) (b : Block) (pc : Word) :
    (d.commit tile b pc).issues = d.issues := by cases tile <;> rfl
@[simp] theorem Dev.commit_written (d : Dev) (tile : Bool) (b : Block) (pc : Word) :
    (d.commit tile b pc).written = d.written := by cases tile <;> rfl
@[simp] theorem Dev.commit_late (d : Dev) (tile : Bool) (b : Block) (pc : Word) :
    (d.commit tile b pc).late = d.late := by cases tile <;> rfl
@[simp] theorem Dev.commit_counted (d : Dev) (tile : Bool) (b : Block) (pc : Word) :
    (d.commit tile b pc).counted = d.counted := by cases tile <;> rfl
@[simp] theorem Dev.commit_ownQueue (d : Dev) (tile : Bool) (b : Block) (pc : Word) :
    (d.commit tile b pc).ownQueue = d.ownQueue := by cases tile <;> rfl
@[simp] theorem Dev.commit_est (d : Dev) (tile : Bool) (b : Block) (pc : Word) :
    (d.commit tile b pc).est = d.est := by cases tile <;> rfl
@[simp] theorem Dev.commit_fresh (d : Dev) (tile : Bool) (b : Block) (pc : Word) :
    (d.commit tile b pc).fresh = d.fresh := by cases tile <;> rfl
@[simp] theorem Dev.commit_lu (d : Dev) (tile : Bool) (b : Block) (pc : Word) :
    (d.commit tile b pc).lu = d.lu := by cases tile <;> rfl
@[simp] theorem Dev.commit_fq (d : Dev) (tile : Bool) (b : Block) (pc : Word) :
    (d.commit tile b pc).fq = d.fq := by cases tile <;> rfl
@[simp] theorem Dev.commit_eng (d : Dev) (tile : Bool) (b : Block) (pc : Word) :
    (d.commit tile b pc).eng = d.eng := by cases tile <;> rfl
@[simp] theorem Dev.commit_unc (d : Dev) (tile : Bool) (b : Block) (pc : Word) :
    (d.commit tile b pc).unc = d.unc := by cases tile <;> rfl
@[simp] theorem Dev.commit_link (d : Dev) (tile : Bool) (b : Block) (pc : Word) :
    (d.commit tile b pc).link = d.link := by cases tile <;> rfl
@[simp] theorem Dev.commit_fw (d : Dev) (tile : Bool) (b : Block) (pc : Word) :
    (d.commit tile b pc).fw = d.fw := by cases tile <;> rfl
@[simp] theorem Dev.commit_svc (d : Dev) (tile : Bool) (b : Block) (pc : Word) :
    (d.commit tile b pc).svc = d.svc := by cases tile <;> rfl
@[simp] theorem Dev.commit_err (d : Dev) (tile : Bool) (b : Block) (pc : Word) :
    (d.commit tile b pc).err = d.err := by cases tile <;> rfl
@[simp] theorem Dev.commit_scrubcfg (d : Dev) (tile : Bool) (b : Block) (pc : Word) :
    (d.commit tile b pc).scrubcfg = d.scrubcfg := by cases tile <;> rfl
@[simp] theorem Dev.commit_logbase (d : Dev) (tile : Bool) (b : Block) (pc : Word) :
    (d.commit tile b pc).logbase = d.logbase := by cases tile <;> rfl
@[simp] theorem Dev.commit_logInit (d : Dev) (tile : Bool) (b : Block) (pc : Word) :
    (d.commit tile b pc).logInit = d.logInit := by cases tile <;> rfl
@[simp] theorem Dev.commit_ctrs (d : Dev) (tile : Bool) (b : Block) (pc : Word) :
    (d.commit tile b pc).ctrs = d.ctrs := by cases tile <;> rfl

/-! ## State.commit -/

@[simp] theorem State.commit_mem (s : State) (tile : Bool) (b : Block) (pc : Word) :
    (s.commit tile b pc).mem = s.mem := rfl
@[simp] theorem State.commit_tags (s : State) (tile : Bool) (b : Block) (pc : Word) :
    (s.commit tile b pc).tags = s.tags := rfl
@[simp] theorem State.commit_dev (s : State) (tile : Bool) (b : Block) (pc : Word) :
    (s.commit tile b pc).dev = s.dev.commit tile b pc := rfl

/-! ## The working copy and the state after a step -/

@[simp] theorem Work.start_mem (s : State) : (Work.start s).mem = s.mem := rfl
@[simp] theorem Work.start_tags (s : State) : (Work.start s).tags = s.tags := rfl
@[simp] theorem Work.start_jnl (s : State) : (Work.start s).jnl = [] := rfl
@[simp] theorem Work.start_tjnl (s : State) : (Work.start s).tjnl = [] := rfl
@[simp] theorem Work.start_dev (s : State) : (Work.start s).dev = s.dev := rfl
@[simp] theorem Work.settle_mem (w : Work) (s : State) : (w.settle s).mem = s.mem.writeAll w.jnl := rfl
@[simp] theorem Work.settle_tags (w : Work) (s : State) : (w.settle s).tags = s.tags.writeAll w.tjnl := rfl
@[simp] theorem Work.settle_dev (w : Work) (s : State) : (w.settle s).dev = w.dev := rfl
@[simp] theorem Memory.writeAll_nil (m : Memory) : m.writeAll [] = m := rfl
@[simp] theorem Tags.writeAll_nil (t : Tags) : t.writeAll [] = t := rfl
@[simp] theorem State.tick_mem (s : State) : s.tick.mem = s.mem := rfl
@[simp] theorem State.tick_tags (s : State) : s.tick.tags = s.tags := rfl
@[simp] theorem Work.putByte_mem (w : Work) (pa : Nat) (v : Byte) : (w.putByte pa v).mem = w.mem := rfl
@[simp] theorem Work.putByte_tags (w : Work) (pa : Nat) (v : Byte) : (w.putByte pa v).tags = w.tags := rfl
@[simp] theorem Work.putByte_jnl (w : Work) (pa : Nat) (v : Byte) : (w.putByte pa v).jnl = (pa, v) :: w.jnl := rfl
@[simp] theorem Work.putByte_tjnl (w : Work) (pa : Nat) (v : Byte) : (w.putByte pa v).tjnl = w.tjnl := rfl
@[simp] theorem Work.putByte_dev (w : Work) (pa : Nat) (v : Byte) : (w.putByte pa v).dev = w.dev := rfl

/-! ## Registers -/

@[simp] theorem Block.rs_zero (b : Block) : b.rs 0 = SReg.reset := rfl
@[simp] theorem Block.rp_zero (b : Block) : b.rp_ 0 = PReg.plain true := rfl
@[simp] theorem Block.rm_zero (b : Block) : b.rm_ 0 = maskAll := rfl
@[simp] theorem Block.ws_zero (b : Block) (v : SReg) : b.ws 0 v = b := rfl
@[simp] theorem Block.wp_zero (b : Block) (v : PReg) : b.wp 0 v = b := rfl
@[simp] theorem Block.wm_zero (b : Block) (v : MaskReg) : b.wm 0 v = b := rfl

theorem Block.rs_ws_same (b : Block) (r : Reg) (v : SReg) (h : r ≠ 0) : (b.ws r v).rs r = v := by
  unfold Block.rs Block.ws
  rw [if_neg h]
  simp only [if_neg h, Vector.getElem_set_self]

theorem Block.rs_ws_other (b : Block) (r q : Reg) (v : SReg) (h : q ≠ r) : (b.ws r v).rs q = b.rs q := by
  have e : r.toNat ≠ q.toNat := fun e => h (BitVec.eq_of_toNat_eq e.symm)
  unfold Block.rs Block.ws
  by_cases hr : r = 0
  · simp only [if_pos hr]
  · simp only [if_neg hr, Vector.getElem_set_ne _ _ e]

theorem Block.wp_rp_same (b : Block) (r : PredReg) (v : PReg) (h : r ≠ 0) : (b.wp r v).rp_ r = v := by
  unfold Block.rp_ Block.wp
  rw [if_neg h]
  simp only [if_neg h, Vector.getElem_set_self]

theorem Block.wp_rp_other (b : Block) (r q : PredReg) (v : PReg) (h : q ≠ r) : (b.wp r v).rp_ q = b.rp_ q := by
  have e : r.toNat ≠ q.toNat := fun e => h (BitVec.eq_of_toNat_eq e.symm)
  unfold Block.rp_ Block.wp
  by_cases hr : r = 0
  · simp only [if_pos hr]
  · simp only [if_neg hr, Vector.getElem_set_ne _ _ e]

theorem Block.wm_rm_same (b : Block) (r : MaskField) (v : MaskReg) (h : r ≠ 0) : (b.wm r v).rm_ r = v := by
  unfold Block.rm_ Block.wm
  rw [if_neg h]
  simp only [if_neg h, Vector.getElem_set_self]

theorem Block.wm_rm_other (b : Block) (r q : MaskField) (v : MaskReg) (h : q ≠ r) : (b.wm r v).rm_ q = b.rm_ q := by
  have e : r.toNat ≠ q.toNat := fun e => h (BitVec.eq_of_toNat_eq e.symm)
  unfold Block.rm_ Block.wm
  by_cases hr : r = 0
  · simp only [if_pos hr]
  · simp only [if_neg hr, Vector.getElem_set_ne _ _ e]

theorem Block.tile_setTile_same (b : Block) (t : TileNo) (v : TileReg) : (b.setTile t v).tile t = v := by
  unfold Block.tile Block.setTile
  simp only [Vector.getElem_set_self]

theorem Block.tile_setTile_other (b : Block) (t u : TileNo) (v : TileReg) (h : u ≠ t) :
    (b.setTile t v).tile u = b.tile u := by
  have : t.toNat ≠ u.toNat := fun e => h (BitVec.eq_of_toNat_eq e.symm)
  unfold Block.tile Block.setTile
  simp only [Vector.getElem_set_ne _ _ this]

end Sys2Proof.Machine
end

