-- ==== Sys2Proof/Laws/Memory.lean ====
section
/-! SUPPORT. Cells: read after write, and the canonical form that every memory operation keeps. -/
namespace Sys2Proof.Machine

variable {α : Type}

/-- Every place of a list is above a bound. -/
def cellsAbove (m : List (Nat × α)) (x : Nat) : Bool :=
  match m with
  | [] => true
  | (a, _) :: _ => decide (x < a)

theorem cellsAbove_trans {m : List (Nat × α)} {x y : Nat} (h : cellsAbove m y = true) (l : x ≤ y) :
    cellsAbove m x = true := by
  cases m with
  | nil => rfl
  | cons c r => simp [cellsAbove] at *; omega

variable [DecidableEq α]

theorem cellsWf_cons (d : α) (a : Nat) (v : α) (r : List (Nat × α)) :
    cellsWf d ((a, v) :: r) = (decide (v ≠ d) && cellsAbove r a && cellsWf d r) := by
  cases r <;> rfl

theorem cellsWf_tail {d : α} {a : Nat} {v : α} {r : List (Nat × α)} (h : cellsWf d ((a, v) :: r) = true) :
    cellsWf d r = true := by
  rw [cellsWf_cons] at h
  simp only [Bool.and_eq_true] at h
  exact h.2

theorem cellsAbove_put (d : α) (m : List (Nat × α)) (x y : Nat) (v : α) (h : cellsAbove m y = true)
    (l : y < x ∨ v = d) (w : cellsWf d m = true) : cellsAbove (cellPut d m x v) y = true := by
  induction m with
  | nil =>
    unfold cellPut
    split
    · rfl
    · rcases l with l | l
      · simpa [cellsAbove] using l
      · contradiction
  | cons c r ih =>
    obtain ⟨a, u⟩ := c
    have ha : y < a := by simpa [cellsAbove] using h
    rw [cellsWf_cons] at w
    simp only [Bool.and_eq_true] at w
    have hr : cellsAbove r y = true := cellsAbove_trans w.1.2 (by omega)
    unfold cellPut
    split
    · split
      · exact ih hr w.2
      · simpa [cellsAbove] using ha
    · have l : y < x := l.resolve_right (by assumption)
      split
      · simpa [cellsAbove] using l
      · split
        · simpa [cellsAbove] using l
        · simpa [cellsAbove] using ha

/-- A write keeps the canonical form. -/
theorem cellPut_wf (d : α) (m : List (Nat × α)) (x : Nat) (v : α) (h : cellsWf d m = true) :
    cellsWf d (cellPut d m x v) = true := by
  induction m with
  | nil =>
    unfold cellPut
    split
    · rfl
    · simp [cellsWf, *]
  | cons c r ih =>
    obtain ⟨a, u⟩ := c
    have ht := ih (cellsWf_tail h)
    have hw := h
    rw [cellsWf_cons] at hw
    simp only [Bool.and_eq_true] at hw
    unfold cellPut
    split
    · next hv =>
      split
      · exact ht
      · rw [cellsWf_cons, ht, cellsAbove_put d r x a v hw.1.2 (.inr hv) hw.2]
        simp [hw.1.1]
    · split
      · rw [cellsWf_cons, h]
        simp [cellsAbove, *]
      · split
        · subst_vars
          rw [cellsWf_cons]
          simp [*]
        · rw [cellsWf_cons, ht]
          have : cellsAbove (cellPut d r x v) a = true := cellsAbove_put d r x a v hw.1.2 (.inl (by omega)) hw.2
          simp [this, hw.1.1]

/-- A journal keeps the canonical form. -/
theorem cellPutAll_wf (d : α) (m j : List (Nat × α)) (h : cellsWf d m = true) :
    cellsWf d (cellPutAll d m j) = true := by
  induction j with
  | nil => exact h
  | cons c r ih => obtain ⟨x, v⟩ := c; exact cellPut_wf d _ x v ih

/-- A read after a write to the same place gives the value. -/
theorem cellAt_cellPut_same (d : α) (m : List (Nat × α)) (x : Nat) (v : α) : cellAt d (cellPut d m x v) x = v := by
  induction m with
  | nil => unfold cellPut; split <;> simp [cellAt, *]
  | cons c r ih =>
    obtain ⟨a, u⟩ := c
    unfold cellPut
    split
    · split
      · exact ih
      · next hx => unfold cellAt; rw [if_neg hx]; exact ih
    · split
      · simp [cellAt]
      · split
        · simp [cellAt]
        · next hx => unfold cellAt; rw [if_neg (Ne.symm hx)]; exact ih

/-- A write leaves every other place alone. -/
theorem cellAt_cellPut_other (d : α) (m : List (Nat × α)) (x y : Nat) (v : α) (n : y ≠ x) :
    cellAt d (cellPut d m x v) y = cellAt d m y := by
  induction m with
  | nil =>
    unfold cellPut
    split
    · rfl
    · simp [cellAt, Ne.symm n]
  | cons c r ih =>
    obtain ⟨a, u⟩ := c
    unfold cellPut
    split
    · split
      · next hx => subst hx; rw [ih]; simp [cellAt, Ne.symm n]
      · unfold cellAt; split
        · rfl
        · exact ih
    · split
      · simp [cellAt, Ne.symm n]
      · split
        · next hx => subst hx; simp [cellAt, Ne.symm n]
        · unfold cellAt; split
          · rfl
          · exact ih

/-- A place after a journal: its newest entry, or what it held. -/
theorem cellAt_cellPutAll (d : α) (m j : List (Nat × α)) (x : Nat) :
    cellAt d (cellPutAll d m j) x = (journalAt j x).getD (cellAt d m x) := by
  induction j with
  | nil => rfl
  | cons c r ih =>
    obtain ⟨y, v⟩ := c
    unfold cellPutAll journalAt
    by_cases e : y = x
    · subst e
      simp [cellAt_cellPut_same d _ y v]
    · rw [if_neg e, cellAt_cellPut_other d _ y x v (Ne.symm e)]
      exact ih

/-! ## Memory -/

theorem Memory.write_wf (m : Memory) (pa : Nat) (v : Byte) (h : m.wf = true) : (m.write pa v).wf = true :=
  cellPut_wf _ m pa v h

theorem Memory.writeAll_wf (m : Memory) (j : List Host.Cell) (h : m.wf = true) : (m.writeAll j).wf = true :=
  cellPutAll_wf _ m j h

theorem Tags.writeAll_wf (t : Tags) (j : List (Nat × BitVec 16)) (h : t.wf = true) : (t.writeAll j).wf = true :=
  cellPutAll_wf _ t j h

theorem Memory.read_write_same (m : Memory) (pa : Nat) (v : Byte) : (m.write pa v).read pa = v :=
  cellAt_cellPut_same _ m pa v

theorem Memory.read_write_other (m : Memory) (pa x : Nat) (v : Byte) (n : x ≠ pa) :
    (m.write pa v).read x = m.read x :=
  cellAt_cellPut_other _ m pa x v n

theorem Memory.read_writeAll (m : Memory) (j : List Host.Cell) (x : Nat) :
    (m.writeAll j).read x = (journalAt j x).getD (m.read x) :=
  cellAt_cellPutAll _ m j x

/-- A byte after a step is the byte that the working copy shows. -/
theorem Work.settle_read (w : Work) (s : State) (x : Nat) (e : w.mem = s.mem) :
    (w.settle s).mem.read x = w.byte x := by
  rw [Work.settle_mem, Memory.read_writeAll]
  unfold Work.byte
  rw [e]

theorem Work.byte_putByte_same (w : Work) (pa : Nat) (v : Byte) : (w.putByte pa v).byte pa = v := by
  simp [Work.byte, journalAt]

theorem Work.byte_putByte_other (w : Work) (pa x : Nat) (v : Byte) (n : x ≠ pa) :
    (w.putByte pa v).byte x = w.byte x := by
  simp [Work.byte, journalAt, Ne.symm n]

end Sys2Proof.Machine
end

