-- ==== Sys2Proof/Laws/Ops.lean ====
section
/-! SUPPORT. What the shared operations can do: the monad of the meanings, checks, the end of an instruction, traps. -/
namespace Sys2Proof.Machine

/-! ## Running a computation -/

theorem M.bind_run {α β : Type} (m : M α) (f : α → M β) (w : Work) :
    (m >>= f) w = (match m w with
      | .ok a v => f a v
      | .error e v => .error e v) := by
  show EStateM.bind m f w = _
  unfold EStateM.bind
  cases m w <;> rfl

@[simp] theorem M.pure_run {α : Type} (a : α) (w : Work) : (pure a : M α) w = .ok a w := rfl
@[simp] theorem M.get_run (w : Work) : (get : M Work) w = .ok w w := rfl
@[simp] theorem M.set_run (v w : Work) : (set v : M Unit) w = .ok () v := rfl
@[simp] theorem M.modify_run (f : Work → Work) (w : Work) : (modify f : M Unit) w = .ok () (f w) := rfl
@[simp] theorem M.modifyGet_run {α : Type} (f : Work → α × Work) (w : Work) :
    (modifyGet f : M α) w = .ok (f w).1 (f w).2 := rfl
@[simp] theorem getDev_run (w : Work) : getDev w = .ok w.dev w := rfl
@[simp] theorem getBlk_run (w : Work) : getBlk w = .ok w.dev.blk w := rfl
@[simp] theorem modifyDev_run (f : Dev → Dev) (w : Work) : modifyDev f w = .ok () { w with dev := f w.dev } := rfl
@[simp] theorem modifyBlk_run (f : Block → Block) (w : Work) :
    modifyBlk f w = .ok () { w with dev := { w.dev with blk := f w.dev.blk } } := rfl
@[simp] theorem setBlk_run (b : Block) (w : Work) : setBlk b w = .ok () { w with dev := { w.dev with blk := b } } := rfl
@[simp] theorem raise_run {α : Type} (c : Cause) (w : Work) : (raise c : M α) w = .error (.trap c 0 0 none) w := rfl
@[simp] theorem raiseAt_run {α : Type} (c : Cause) (e : Nat) (w : Work) :
    (raiseAt c e : M α) w = .error (.trap c 0 e none) w := rfl
@[simp] theorem stopWith_run {α : Type} (e : Stop) (w : Work) : (stopWith e : M α) w = .error e w := rfl
@[simp] theorem stay_run {α : Type} (w : Work) : (stay : M α) w = .error .stay w := rfl

/-- A conditional in a computation is decided by its condition. -/
theorem M.ite_run {α : Type} (c : Prop) [Decidable c] (m n : M α) (w : Work) :
    (if c then m else n) w = if c then m w else n w := by split <;> rfl

theorem raiseIf_run (b : Bool) (c : Cause) (w : Work) :
    raiseIf b c w = if b then .error (.trap c 0 0 none) w else .ok () w := by
  cases b <;> rfl

theorem needRows_run (n : Nat) (w : Work) :
    needRows n w = if w.dev.blk.fits n then .ok () w else .error (.trap .tileSpace 0 0 none) w := by
  unfold needRows
  rw [M.bind_run]
  simp only [getBlk_run, M.ite_run, M.pure_run, raise_run]

theorem bound_run (t : TileNo) (w : Work) :
    bound t w = match w.dev.blk.recOf t with
      | some r => .ok r w
      | none => .error (.trap .tileUnbound 0 0 none) w := by
  unfold bound
  rw [M.bind_run]
  simp only [getBlk_run]
  cases w.dev.blk.recOf t <;> rfl

theorem freshRecs_run (rs : List ShapeRec) (w : Work) :
    freshRecs rs w = if rs.any (·.stale) then .error (.trap .shapeStale 0 0 none) w else .ok () w := raiseIf_run _ _ w

theorem sameShapes_run (d : ShapeRec) (rs : List ShapeRec) (w : Work) :
    sameShapes d rs w = if rs.any (fun r => !r.sameShape d) then .error (.trap .shapeMismatch 0 0 none) w else .ok () w :=
  raiseIf_run _ _ w

/-! ## The end of an instruction -/

theorem runTo_ok {s : State} {tile : Bool} {m : M Word} {pc : Word} {w : Work} (h : m (Work.start s) = .ok pc w) :
    runTo s tile m = .next ({ w with dev := w.dev.commit tile w.dev.blk pc }.settle s) := by
  unfold runTo; rw [h]

theorem runTo_error {s : State} {tile : Bool} {m : M Word} {e : Stop} {w : Work} (h : m (Work.start s) = .error e w) :
    runTo s tile m = .next ((stopped s e w).settle s) := by
  unfold runTo; rw [h]

theorem run_ok {s : State} {tile : Bool} {m : M Unit} {w : Work} (h : m (Work.start s) = .ok () w) :
    run s tile m = .next ({ w with dev := w.dev.commit tile w.dev.blk (s.dev.blk.pc + 4) }.settle s) := by
  unfold run
  apply runTo_ok
  rw [M.bind_run, h]
  rfl

theorem run_error {s : State} {tile : Bool} {m : M Unit} {e : Stop} {w : Work} (h : m (Work.start s) = .error e w) :
    run s tile m = .next ((stopped s e w).settle s) := by
  unfold run
  apply runTo_error
  rw [M.bind_run, h]

/-- Every meaning that runs a computation answers a next state, which is a settled working copy. -/
theorem runTo_next (s : State) (tile : Bool) (m : M Word) : ∃ w : Work, runTo s tile m = .next (w.settle s) := by
  unfold runTo
  cases m (Work.start s) with
  | ok pc w => exact ⟨_, rfl⟩
  | error e w => exact ⟨_, rfl⟩

theorem run_next (s : State) (tile : Bool) (m : M Unit) : ∃ w : Work, run s tile m = .next (w.settle s) :=
  runTo_next s tile _

/-- A settled working copy keeps the canonical form. -/
theorem Work.settle_wf (w : Work) (s : State) (h : s.mem.wf = true) (t : s.tags.wf = true) :
    (w.settle s).mem.wf = true ∧ (w.settle s).tags.wf = true :=
  ⟨Memory.writeAll_wf _ _ h, Tags.writeAll_wf _ _ t⟩

end Sys2Proof.Machine
end

