-- ==== Sys2Proof/Machine/Assembly.lean ====
section
/-! DEFINITION. What the assembler and the linker compute for the device (R77 to R84): annotations, the halves of an
address, relocations, pseudo-instructions, the bytes of headers, launch records and shape descriptors, and lane-function
bodies.  Source text itself is no state of the device. -/
namespace Sys2Proof.Machine

/-! ## Fields -/

/-- A value as a signed field of `w` bits, where it fits (R58, R77). -/
def signedField (w : Nat) (v : Int) : Option (BitVec w) :=
  if -(2 ^ (w - 1)) ≤ v ∧ v < 2 ^ (w - 1) then some (BitVec.ofInt w v) else none

/-- The offset field of a branch at `here` to `target`, in words (R77). -/
def branchField (w : Nat) (here target : Word) : Option (BitVec w) :=
  let d : Int := (target.toNat : Int) - (here.toNat : Int)
  if d % 4 = 0 then signedField w (d / 4) else none

/-- The annotation code of a kind and a scope (R59, R78). -/
def annotation (kind scope : Nat) : Option Os :=
  if kind ≤ 4 ∧ scope ≤ 5 then some (BitVec.ofNat 5 (1 + 6 * kind + scope)) else none

/-- The class set of TCLASS (R78, R157): zero, finite, infinity, NaN or poison. -/
def classSet (z f i n : Bool) : BitVec 4 :=
  BitVec.ofNat 4 ((if z then 1 else 0) + (if f then 2 else 0) + (if i then 4 else 0) + (if n then 8 else 0))

/-! ## The halves of a value (R79) -/

def asmLo (v : Word) : Word := (v.extractLsb' 0 16).signExtend 64

def asmHi (v : Word) : Word := (v - asmLo v).sshiftRight 16

def asmPcHi (v here : Word) : Word := asmHi (v - here)

def asmPcLo (v here : Word) : Word := asmLo (v - here)

/-- A %hi value as the 21 bits of LUI and AUIPC, where it fits. -/
def hiField (v : Word) : Option (BitVec 21) := signedField 21 v.toInt

/-! ## Relocations (R83) -/

inductive Reloc where
  | b22 | z20 | j21 | loop16 | hi21 | lo16 | pchi21 | pclo16 | abs64
  deriving DecidableEq, Repr

/-- The width of the field that a relocation fills, from bit 0 of the word; KZ_ABS64 fills a whole .dword. -/
def Reloc.width (r : Reloc) : Nat :=
  match r with
  | .b22 => 22
  | .z20 => 20
  | .j21 | .hi21 | .pchi21 => 21
  | .loop16 | .lo16 | .pclo16 => 16
  | .abs64 => 64

/-- The value of the field: `s` is the symbol's address plus the addend, `p` the word's address, `auipc` that of the
AUIPC word; none where it does not fit. -/
def Reloc.field (r : Reloc) (s p auipc : Word) : Option Nat :=
  match r with
  | .b22 => (branchField 22 p s).map (·.toNat)
  | .z20 => (branchField 20 p s).map (·.toNat)
  | .j21 => (branchField 21 p s).map (·.toNat)
  | .loop16 => (branchField 16 p s).bind fun v => if v.toInt < 0 then some v.toNat else none
  | .hi21 => (hiField (asmHi s)).map (·.toNat)
  | .lo16 => some ((asmLo s).extractLsb' 0 16).toNat
  | .pchi21 => (hiField (asmPcHi s p)).map (·.toNat)
  | .pclo16 => some ((asmPcLo s auipc).extractLsb' 0 16).toNat
  | .abs64 => some s.toNat

/-- The bytes that hold a relocation's field: a .dword, or an instruction word. -/
def Reloc.bytes (r : Reloc) : Nat := if r = .abs64 then 8 else 4

/-- What stands at the relocation, `w`, with its field resolved. -/
def Reloc.apply (r : Reloc) (s p auipc w : Word) : Option Word :=
  (r.field s p auipc).map fun v => w >>> r.width <<< r.width ||| BitVec.ofNat 64 v

/-! ## Sections (R80, R83) -/

inductive Section where
  | text | kinfo | data
  deriving DecidableEq, Repr

/-- `n` zero bytes: the directive .zero. -/
def zeroBytes (n : Nat) : List Byte := List.replicate n 0

/-- `n` bytes of the section's fill: NOP words in .text, zero bytes elsewhere. Fewer than four bytes of .text are no word,
and the rule has data there aligned to 4. DESIGN CHOICE, log entry 100: where .text stands at no multiple of 4, so that
the bytes to fill begin inside a word, the NOP words still come first and the zero bytes last. -/
def Section.fill (c : Section) (n : Nat) : List Byte :=
  match c with
  | .text => ((List.replicate (n / 4) (natLe 4 0x42000000)).flatten ++ zeroBytes (n % 4))
  | .kinfo | .data => zeroBytes n

/-- The section's bytes so far, filled to a multiple of 2ⁿ: the directive .align. -/
def Section.align (c : Section) (n : Nat) (bs : List Byte) : Option (List Byte) :=
  if n ≤ 16 then some (bs ++ c.fill ((2 ^ n - bs.length % 2 ^ n) % 2 ^ n)) else none

/-- A record appended to a section on a boundary of 2ⁿ bytes: 6 for a header and a launch record, 3 for a shape
descriptor (R80, R81). -/
def Section.put (c : Section) (n : Nat) (rec bs : List Byte) : Option (List Byte) := (c.align n bs).map (· ++ rec)

/-- The image of the three sections, in their order, each on a 64 KiB boundary (R83). -/
def linkImage (text kinfo data : List Byte) : Option (List Byte) := do
  let t ← Section.text.align 16 text
  let k ← Section.kinfo.align 16 kinfo
  let d ← Section.data.align 16 data
  return t ++ k ++ d

/-- Where a section begins in that image, whose address is `base`. -/
def Section.base (c : Section) (base text kinfo : Nat) : Nat :=
  let page (n : Nat) : Nat := (n + 65535) / 65536 * 65536
  match c with
  | .text => base
  | .kinfo => base + page text
  | .data => base + page text + page kinfo

/-! ## Pseudo-instructions (R84) -/

inductive Pseudo where
  | nop
  | mov (d a : Reg)
  | neg (d a : Reg)
  | li (d : Reg) (v : Word)
  | la (d : Reg) (sym : Word)
  | br (target : Word)
  | call (target : Word)
  | ret
  | pset (d : PredReg)
  | pclr (d : PredReg)
  | tzero (d : TileNo)
  deriving DecidableEq, Repr

/-- The expansion of a pseudo-instruction whose first word stands at `here`; none is an error of the source. -/
def Pseudo.expand (p : Pseudo) (here : Word) : Option (List Instr) :=
  match p with
  | .nop => some [.b 1 0 0]
  | .mov d a => some [.add d a 0]
  | .neg d a => some [.sub d 0 a]
  | .li d v =>
    match signedField 16 v.toInt with
    | some i => some [.addi d 0 i]
    | none => (hiField (asmHi v)).map fun h => [.lui d h, .addi d d (v.extractLsb' 0 16)]
  | .la d v =>
    (hiField (asmPcHi v here)).map fun h => [.auipc d h, .addi d d ((v - here).extractLsb' 0 16)]
  | .br t => (branchField 22 here t).map fun o => [.b 0 0 o]
  | .call t => (branchField 21 here t).map fun o => [.jal 31 o]
  | .ret => some [.jr 0 31]
  | .pset d => some [.pmov d 0]
  | .pclr d => some [.pnot d 0]
  | .tzero d => some [.tbcast d 0 0]

/-! ## Records (R81, R139, R324, R325) -/

/-- The header that the source's required keys give, every other key at its default (R81); the entry is the kernel's
label. -/
def Header.ofKeys (entry : Word) (rows share : Nat) : Header :=
  { entry := entry, srseed := 0, rows := rows, tsRows := 0, scratch := 0, share := share, poison := 0, compat := false }

/-- The launch record that the source's required keys give, every other key at its default (R81). -/
def LaunchRec.ofKeys (header x y z : Nat) : LaunchRec :=
  { cls := 4, coresident := false, notify := false, gang := 1, budget := 0, header := header, x := x, y := y, z := z,
    done := 0, status := 0 }

/-- The 64 bytes of a kernel header; none where a value is out of its range. -/
def Header.emit (h : Header) : Option (List Byte) :=
  if h.entry.toNat % 4 = 0 ∧ h.rows ≤ 1536 ∧ h.tsRows ≤ 1024 ∧ h.scratch ≤ 786432 ∧ legalShare h.share ∧ h.poison ≤ 2 then
    some (natLe 8 h.entry.toNat ++ natLe 8 h.srseed.toNat ++ natLe 2 h.rows ++ natLe 2 h.tsRows ++ natLe 4 h.scratch ++
      natLe 1 h.share ++ natLe 1 (h.poison + if h.compat then 4 else 0) ++ natLe 38 0)
  else none

/-- The 64 bytes of a launch record of kind 1. -/
def LaunchRec.emit (r : LaunchRec) : Option (List Byte) :=
  let count (n : Nat) : Bool := 1 ≤ n && n ≤ 65535
  if r.cls ≤ 7 ∧ 1 ≤ r.gang ∧ r.gang ≤ 64 ∧ r.budget < 2 ^ 32 ∧ count r.x ∧ count r.y ∧ count r.z ∧ r.done % 8 = 0 ∧
      r.status % 8 = 0 ∧ r.done < 2 ^ 64 ∧ r.status < 2 ^ 64 ∧ r.header < 2 ^ 64 then
    some (natLe 1 1 ++ natLe 1 (r.cls + (if r.coresident then 8 else 0) + (if r.notify then 16 else 0)) ++
      natLe 1 r.gang ++ natLe 1 0 ++ natLe 4 r.budget ++ natLe 8 r.header ++ natLe 2 r.x ++ natLe 2 r.y ++ natLe 2 r.z ++
      natLe 2 0 ++ natLe 8 r.done ++ natLe 8 r.status ++ natLe 24 0)
  else none

/-- A shape descriptor; `cols` is none in GRANT mode, and `tail` is keep unless the source says dead. -/
def emitShape (t : Tag) (rows : Nat) (cols : Option Nat) (dead : Bool := false) : Option Word :=
  let c := cols.getD 0
  if t.code ≠ 0 ∧ 1 ≤ rows ∧ rows ≤ 1536 ∧ (cols = none ∨ 1 ≤ c ∧ c ≤ 65535) then
    some (BitVec.ofNat 64 (t.code + (if cols = none then 32 else 0) + (if dead then 64 else 0) + 2 ^ 8 * (rows - 1) +
      2 ^ 19 * c))
  else none

/-- A decimal real, a numerator over a power of ten, in a format (R80). -/
def emitReal (t : Tag) (neg : Bool) (num tens : Nat) : Nat :=
  t.fmt.pack .rne (Num.div (.fin neg num 0 false) (.fin false (10 ^ tens) 0 false))

/-- An integer of a data directive, in `n` bytes; it must fit signed or unsigned (R80). -/
def emitInt (n : Nat) (v : Int) : Option (List Byte) :=
  if -(2 ^ (8 * n - 1)) ≤ v ∧ v < 2 ^ (8 * n) then some (natLe n (v % 2 ^ (8 * n)).toNat) else none

/-! ## Lane-function bodies (R74, R82) -/

/-- The lane major of an operation (R74). -/
def LaneOp.major (o : LaneOp) : Nat :=
  match o with
  | .eadd => 0x01
  | .esub => 0x02
  | .emul => 0x03
  | .efma => 0x04
  | .ediv => 0x05
  | .esqrt => 0x06
  | .emin => 0x07
  | .emax => 0x08
  | .eabs => 0x09
  | .ecmp => 0x0A
  | .esel => 0x0B
  | .ecvt => 0x0C
  | .eand => 0x0D
  | .eor => 0x0E
  | .exor => 0x0F
  | .eshl => 0x10
  | .eshr => 0x11
  | .eacs => 0x12
  | .epack => 0x13
  | .eunpk => 0x14
  | .elut => 0x15
  | .emovi => 0x16
  | .eidx => 0x17
  | .eget => 0x18
  | .eskip => 0x19
  | .eend => 0x1A

/-- The word of a body instruction (R74). -/
def LaneInsn.word (i : LaneInsn) : Insn :=
  BitVec.ofNat 32 (i.op.major * 2 ^ 26 + i.d % 16 * 2 ^ 22 + i.a % 16 * 2 ^ 18 + i.b % 16 * 2 ^ 14 + i.c % 16 * 2 ^ 10 +
    i.imm.toNat)

/-- The length field of the call and the words of its body; none for a body that R82 forbids. -/
def emitBody (body : List LaneInsn) : Option (BitVec 5 × List Insn) :=
  let ws := body.map LaneInsn.word
  if 1 ≤ body.length ∧ body.length ≤ 32 ∧ laneBody ws = some body then some (BitVec.ofNat 5 (body.length - 1), ws) else none

/-- The count of an ESKIP at word `at_` of a body to a label before word `label` (R82). -/
def skipCount (at_ label : Nat) : Option (BitVec 10) :=
  if at_ + 2 ≤ label ∧ label ≤ at_ + 32 then some (BitVec.ofNat 10 (label - at_ - 1)) else none

end Sys2Proof.Machine
end

