-- ==== Sys2Proof/Tests/Slice0.lean ====
section
/-! SUPPORT. Tests: words written field by field from the encodings of R52 to R73, ill-formed terms, worked examples of
the spec, and for each statement states that meet what it supposes. -/
namespace Sys2Proof.Tests
open Sys2Proof Sys2Proof.Machine

/-! ## Words: major, then the fields of the format from bit 25 down (R54, R64 to R73) -/

/-- Majors 0x01 to 0x09 (R64, R65). -/
theorem test_words_alu :
    decode (0x01#6 ++ 1#5 ++ 2#5 ++ 3#5 ++ 0#5 ++ 0#6) = some (.add 1 2 3) ∧
    decode (0x01#6 ++ 31#5 ++ 30#5 ++ 29#5 ++ 5#5 ++ 0#6) = some (.div 31 30 29) ∧
    decode (0x01#6 ++ 4#5 ++ 5#5 ++ 6#5 ++ 25#5 ++ 63#6) = some (.bfi 4 5 6 63) ∧
    decode (0x01#6 ++ 4#5 ++ 5#5 ++ 6#5 ++ 26#5 ++ 7#6) = some (.sel 4 5 6 7) ∧
    decode (0x01#6 ++ 4#5 ++ 5#5 ++ 1#5 ++ 21#5 ++ 0#6) = none ∧
    decode (0x02#6 ++ 1#5 ++ 2#5 ++ 0xFFFF#16) = some (.addi 1 2 0xFFFF) ∧
    decode (0x06#6 ++ 1#5 ++ 2#5 ++ 2#2 ++ 0#8 ++ 63#6) = some (.srai 1 2 63) ∧
    decode (0x07#6 ++ 1#5 ++ 0x1FFFFF#21) = some (.lui 1 0x1FFFFF) ∧
    decode (0x09#6 ++ 1#5 ++ 2#5 ++ 3#5 ++ 0#8 ++ 6#3) = some (.addx 1 2 3 6) ∧
    decode (0x09#6 ++ 1#5 ++ 2#5 ++ 3#5 ++ 0#8 ++ 7#3) = none := by decide +kernel

/-- Majors 0x0A to 0x0F (R65, R66). -/
theorem test_words_predicates_memory :
    decode (0x0A#6 ++ 7#5 ++ 2#5 ++ 3#5 ++ 0#7 ++ 5#4) = some (.cmp 7 2 3 5) ∧
    decode (0x0A#6 ++ 8#5 ++ 2#5 ++ 3#5 ++ 0#7 ++ 5#4) = none ∧
    decode (0x0B#6 ++ 1#5 ++ 2#5 ++ 4#3 ++ 0x1000#13) = some (.cmpi 1 2 4 0x1000) ∧
    decode (0x0C#6 ++ 1#5 ++ 2#5 ++ 3#5 ++ 0#8 ++ 2#3) = some (.pxor 1 2 3) ∧
    decode (0x0D#6 ++ 1#5 ++ 2#5 ++ 3#5 ++ 3#3 ++ 1#1 ++ 0#2 ++ 12#5) = some (.ldd 1 2 3 1 12) ∧
    decode (0x0D#6 ++ 1#5 ++ 2#5 ++ 3#5 ++ 3#3 ++ 0#1 ++ 0#2 ++ 13#5) = none ∧
    decode (0x0E#6 ++ 1#5 ++ 2#5 ++ 3#5 ++ 1#3 ++ 0#1 ++ 0#2 ++ 18#5) = some (.sth 1 2 3 0 18) ∧
    decode (0x0F#6 ++ 1#5 ++ 2#5 ++ 3#5 ++ 9#4 ++ 1#2 ++ 30#5) = some (.amo 1 2 3 9 1 30) ∧
    decode (0x0F#6 ++ 1#5 ++ 2#5 ++ 3#5 ++ 9#4 ++ 1#2 ++ 0#5) = none := by decide +kernel

/-- Majors 0x10 to 0x17 (R67, R68). -/
theorem test_words_control :
    decode (0x10#6 ++ 1#1 ++ 7#3 ++ 0x200000#22) = some (.b 1 7 0x200000) ∧
    decode (0x11#6 ++ 9#5 ++ 1#1 ++ 0x80000#20) = some (.bnz 9 0x80000) ∧
    decode (0x12#6 ++ 0#5 ++ 0x100000#21) = some (.j 0x100000) ∧
    decode (0x12#6 ++ 1#5 ++ 0x100000#21) = none ∧
    decode (0x13#6 ++ 31#5 ++ 1#21) = some (.jal 31 1) ∧
    decode (0x14#6 ++ 1#5 ++ 2#5 ++ 0#16) = some (.jr 1 2) ∧
    decode (0x15#6 ++ 3#5 ++ 0#5 ++ 0x8000#16) = some (.loop 3 0x8000) ∧
    decode (0x15#6 ++ 3#5 ++ 0#5 ++ 0x7FFF#16) = none ∧
    decode (0x16#6 ++ 1#5 ++ 0#5 ++ 0#2 ++ 0#2 ++ 0x028#12) = some (.csrr 1 0x028) ∧
    decode (0x16#6 ++ 1#5 ++ 2#5 ++ 3#2 ++ 0#2 ++ 0x201#12) = some (.csrc 1 2 0x201) ∧
    decode (0x16#6 ++ 1#5 ++ 0#5 ++ 2#2 ++ 0#2 ++ 0x010#12) = none ∧
    decode (0x17#6 ++ 0#15 ++ 127#7 ++ 0#4) = some (.trap 127) ∧
    decode (0x17#6 ++ 0#5 ++ 9#5 ++ 0#5 ++ 0#7 ++ 4#4) = some (.wait 9) ∧
    decode (0x17#6 ++ 5#5 ++ 9#5 ++ 0#5 ++ 0#7 ++ 6#4) = some (.poison 5 9) := by decide +kernel

/-- Majors 0x18 to 0x1F (R69, R70); the first is the word of the worked example of R61. -/
theorem test_words_tiles :
    decode 0x64A63800#32 = some (.tadd 5 6 7 0 0) ∧
    decode (0x18#6 ++ 1#5 ++ 2#5 ++ 3#5 ++ 0#3 ++ 15#4 ++ 0#4) = some (.shape 1 2 3 15) ∧
    decode (0x18#6 ++ 31#5 ++ 0#5 ++ 0#5 ++ 2#3 ++ 15#4 ++ 0#4) = some (.tbind 31 15) ∧
    decode (0x19#6 ++ 7#5 ++ 2#5 ++ 3#5 ++ 6#3 ++ 12#5 ++ 7#3) = some (.tcmp 7 2 3 6 7) ∧
    decode (0x19#6 ++ 1#5 ++ 2#5 ++ 3#5 ++ 0#3 ++ 0#5 ++ 5#3) = none ∧
    decode (0x1A#6 ++ 1#5 ++ 2#5 ++ 0#5 ++ 7#3 ++ 6#5 ++ 4#3) = some (.ttanh 1 2 7 4) ∧
    decode (0x1B#6 ++ 1#5 ++ 2#5 ++ 9#5 ++ 0#3 ++ 1#2 ++ 1#1 ++ 5#3 ++ 0#2) = some (.tqnt 1 2 9 0 1 5) ∧
    decode (0x1B#6 ++ 1#5 ++ 2#5 ++ 9#5 ++ 0#3 ++ 1#2 ++ 1#1 ++ 4#3 ++ 0#2) = none ∧
    decode (0x1C#6 ++ 1#5 ++ 2#5 ++ 3#5 ++ 4#3 ++ 5#5 ++ 0#3) = some (.tperm 1 2 3 4) ∧
    decode (0x1D#6 ++ 1#5 ++ 2#5 ++ 0#5 ++ 4#3 ++ 2#4 ++ 5#3 ++ 0#1) = some (.tscan 1 2 4 5) ∧
    decode (0x1D#6 ++ 3#5 ++ 2#5 ++ 0#5 ++ 4#3 ++ 7#4 ++ 15#4) = some (.tclass 3 2 4 15) ∧
    decode (0x1E#6 ++ 1#5 ++ 2#5 ++ 3#5 ++ 0#3 ++ 2#5 ++ 0#3) = some (.mxor 1 2 3) ∧
    decode (0x1F#6 ++ 1#5 ++ 2#5 ++ 3#5 ++ 4#3 ++ 1#2 ++ 0#1 ++ 31#5) = some (.map3 1 2 3 4 31) := by decide +kernel

/-- Majors 0x20 to 0x2F (R71 to R73). -/
theorem test_words_tile_memory :
    decode (0x20#6 ++ 1#5 ++ 2#5 ++ 3#5 ++ 4#3 ++ 1#1 ++ 1#2 ++ 7#5) = some (.tlds 1 2 3 4 1 7) ∧
    decode (0x20#6 ++ 1#5 ++ 2#5 ++ 3#5 ++ 4#3 ++ 1#1 ++ 0#2 ++ 7#5) = none ∧
    decode (0x23#6 ++ 1#5 ++ 2#5 ++ 3#5 ++ 0#3 ++ 0#1 ++ 0#2 ++ 0#5) = some (.tldc 1 2 3 0 0 0) ∧
    decode (0x24#6 ++ 7#5 ++ 2#5 ++ 0#5 ++ 0#3 ++ 0#1 ++ 1#2 ++ 0#5) = some (.tldm 7 2) ∧
    decode (0x26#6 ++ 1#5 ++ 2#5 ++ 3#5 ++ 4#3 ++ 0#1 ++ 1#2 ++ 13#5) = some (.tscta 1 2 3 4 0 13) ∧
    decode (0x27#6 ++ 1#5 ++ 2#5 ++ 3#5 ++ 4#3 ++ 6#3 ++ 1#5) = some (.tatom 1 2 3 4 6 1) ∧
    decode (0x28#6 ++ 1#5 ++ 2#5 ++ 0#5 ++ 4#3 ++ 0#8) = some (.tstsh 1 2 4) ∧
    decode (0x29#6 ++ 1#5 ++ 2#5 ++ 3#5 ++ 4#3 ++ 8#4 ++ 1#1 ++ 0#3) = some (.mma 1 2 3 4 8 1) ∧
    decode (0x2A#6 ++ 1#5 ++ 2#5 ++ 3#5 ++ 7#3 ++ 0#8) = none ∧
    decode (0x2B#6 ++ 1#5 ++ 2#5 ++ 4#5 ++ 1#1 ++ 0#1 ++ 6#4 ++ 0#5) = some (.mmav 1 2 2 1 0 6) ∧
    decode (0x2C#6 ++ 1#5 ++ 2#5 ++ 0#5 ++ 3#3 ++ 1#3 ++ 4#3 ++ 1#1 ++ 0#1) = some (.amov 1 2 3 4 1) ∧
    decode (0x2D#6 ++ 1#5 ++ 2#5 ++ 30#5 ++ 0#2 ++ 5#3 ++ 0#6) = some (.copy 1 2 15 5) ∧
    decode (0x2E#6 ++ 1#5 ++ 2#5 ++ 30#5 ++ 1#2 ++ 0#3 ++ 0#6) = some (.copyx 1 2 15 0) ∧
    decode (0x2F#6 ++ 0#5 ++ 2#5 ++ 3#5 ++ 0#3 ++ 0#1 ++ 3#2 ++ 0#5) = some (.cpref 2 3) := by decide +kernel

/-- Majors 0x30 to 0x3F (R62, R63, R73); the last is the all-ones word. -/
theorem test_words_system :
    decode (0x30#6 ++ 0#15 ++ 0#3 ++ 0#3 ++ 7#5) = some (.fence 7) ∧
    decode (0x30#6 ++ 0#15 ++ 0#3 ++ 0#3 ++ 6#5) = none ∧
    decode (0x30#6 ++ 0#15 ++ 1#3 ++ 0#3 ++ 0#5) = some .sjoin ∧
    decode (0x31#6 ++ 1#5 ++ 2#5 ++ 0#16) = some (.launch 1 2) ∧
    decode (0x32#6 ++ 1#5 ++ 0#5 ++ 3#5 ++ 0#3 ++ 2#3 ++ 0#2 ++ 7#3) = some (.recvt 1 3 7) ∧
    decode (0x33#6 ++ 1#5 ++ 2#5 ++ 3#5 ++ 0#3 ++ 0#1 ++ 0#2 ++ 12#5) = some (.evwait 1 2 3 12) ∧
    decode (0x34#6 ++ 1#5 ++ 2#5 ++ 4#5 ++ 5#3 ++ 0#1 ++ 0#7) = some (.qfill 1 2 2 5) ∧
    decode (0x34#6 ++ 1#5 ++ 2#5 ++ 0#5 ++ 0#3 ++ 1#1 ++ 0#7) = some (.qpop 1 2) ∧
    decode (0x35#6 ++ 1#5 ++ 2#5 ++ 0#5 ++ 2#2 ++ 5#3 ++ 0#6) = some (.gsubmit 1 2 5) ∧
    decode (0x36#6 ++ 0#5 ++ 1#5 ++ 2#5 ++ 0#9 ++ 0#2) = some (.tlbinvPage 1 2) ∧
    decode (0x37#6 ++ 0#5 ++ 1#5 ++ 1#1 ++ 0#3 ++ 0x01F#12) = some (.cntw 1 0x01F) ∧
    decode (0x38#6 ++ 0#26) = none ∧ decode 0x00000000#32 = none ∧ decode 0xFFFFFFFF#32 = none := by decide +kernel

/-! ## Terms that are not well formed (R57 to R73): one for each check -/

theorem test_ill_formed_refused :
    ([.addx 1 2 3 7, .cmp 1 2 3 6, .cmpi 1 2 6 0, .ldd 1 2 3 0 13, .ldb 1 2 3 0 31, .std 1 2 3 0 7, .amo 1 2 3 11 0 1,
      .amo 1 2 3 0 2 1, .amo 1 2 3 0 0 0, .loop 1 0, .csrr 1 0x007, .csrw 1 2 0x010, .csrs 1 2 0x028, .tadd 1 2 3 0 5,
      .tabs 1 2 0 5, .tcvt 1 2 3 0 0 0, .tredr 1 2 0 6, .tld 1 2 0 0 1, .tlds 1 2 3 0 0 13, .tst 1 2 0 0 7,
      .tsct 1 2 3 0 0 19, .tatom 1 2 3 0 7 1, .tatom 1 2 3 0 0 0, .mma 1 2 3 0 9 0, .mmas 1 2 3 0 0 0, .mmas 1 2 3 7 0 0,
      .mmav 1 2 0 0 0 1, .mmav 1 2 1 0 0 0, .amov 1 2 0 5 0, .copy 1 2 0 0, .copy 1 2 1 6, .copyz 1 1 7, .fence 6,
      .fence 31, .evwait 1 2 3 0, .qfill 1 2 0 0, .qfill 1 2 1 6, .gsubmit 1 2 6, .cntr 1 0x003, .cntw 1 0x001,
      .thermalTrip] : List Instr).all (fun i => !wellFormed i && ((encode i).bind decode).isNone) = true := by decide +kernel

theorem test_well_formed_taken :
    ([.addx 1 2 3 6, .ldd 1 2 3 0 30, .std 1 2 3 0 13, .amo 1 2 3 10 1 30, .loop 1 0x8000, .csrw 1 2 0x201, .fence 30,
      .mmav 1 2 1 1 1 8, .copyz 1 15 5] : List Instr).all (fun i => wellFormed i && ((encode i).bind decode == some i)) = true := by
  decide +kernel

/-! ## Worked examples of the spec -/

/-- R123: a quotient is cut towards zero and a remainder has the dividend's sign. -/
theorem test_division_signs : divSigned (-7) 2 = -3 ∧ remSigned (-7) 2 = -1 ∧ remSigned 7 (-2) = 1 := by decide +kernel

/-- The worked encodings after R75, and the two words that differ from the first in one bit. -/
theorem test_worked_encodings :
    decode 0x64411818#32 = some (.tfma 2 1 3 0 0) ∧ decode 0x6441181C#32 = some (.tfma 2 1 3 0 4) ∧
    decode 0x64411898#32 = none ∧ decode 0x808A0200#32 = some (.tld 4 10 2 0 0) ∧
    decode 0x3CA84830#32 = some (.amo 5 8 9 0 1 16) ∧ decode 0x42FFFFFB#32 = some (.b 1 3 0x3FFFFB) ∧
    decode 0x42000000#32 = some (.b 1 0 0) := by decide +kernel

/-- R84: li s7, 0x18000, whose low half is negative, and a body's EEND word (R82). -/
theorem test_worked_expansions :
    ((Pseudo.li 7 0x18000).expand 0).map (·.map encode) = some [some 0x1CE00002, some 0x08E78000] ∧
    ((Pseudo.mov 5 6).expand 0).map (·.map encode) = some [some 0x04A60000] ∧
    (Pseudo.nop.expand 0).map (·.map encode) = some [some 0x42000000] ∧
    ({ op := .eend, d := 0, a := 0, b := 0, c := 0, imm := 0 } : LaneInsn).word = 0x68000000#32 := by decide +kernel

/-! ## States that meet what the statements suppose

Each `witness_` theorem names states and operands that meet the hypotheses of the statement whose name it begins with, clause
by clause. -/

/-- A page of 1 GiB that everyone may read, write and execute. -/
def leaf : Leaf :=
  { base := 2 ^ 31, size := 2 ^ 30, pl := 0, r := true, w := true, x := true, u := true, type := .normal, idem := true,
    hostShared := false, compressed := false, domain := true, migrating := false, entry := 2 ^ 20 }

/-- A block that holds the whole of core 0's first lanes. -/
def block : Block :=
  { Block.none with
    id := { BlockId.none with key := { lid := 1, lin := 0 } }, run := .ready, promoted := true,
    place := { Place.none with share := 32, hdrShare := 32, rows := 256, tsRows := 64, scratch := 4096 } }

/-- A launch of one block of class 3. -/
def launch1 : Launch :=
  { lid := 1, ctx := 0, fn := 0, cls := 3, budget := 5, eleft := 5000, eused := 0,
    hdr := { entry := 0, srseed := 0, rows := 256, tsRows := 64, scratch := 4096, share := 32, poison := 0, compat := false },
    gangSize := 1, dimX := 1, dimY := 1, dimZ := 1, coresident := false, notify := false, done := none, since := 0, nextGang := 1,
    skipped := [], saved := [], retired := 0, killed := false, waited := false, node := none }

/-- Translations of the page at address 0, as every part of core 0's unit holds them. -/
def pageZero (l : Leaf) : List TlbEntry :=
  [.scalar 0, .lane 0, .matrix, .copy 0, .copy 1, .save, .walker, .gather].map fun u =>
    { core := 0, unit := u, asid := 0, page := 0, leaf := l }

/-- The device with that block in place, changed by `f`, and translations of the page at address 0. -/
def devOf (f : Block → Block) (l : Leaf := leaf) : Dev :=
  { Dev.reset with
    blk := f block, lu := { Dev.reset.lu with launches := [launch1], nextLid := 2 },
    unc := { Dev.reset.unc with tlb := pageZero l } }

/-- The machine with that device and memory. -/
def on (f : Block → Block) (mem : Memory := []) (l : Leaf := leaf) : State :=
  { mem := mem, tags := [], dev := devOf f l }

/-- Bytes from an address, those that are 0 left out. -/
def cellsAt (pa : Nat) (bs : List Byte) : Memory :=
  (withIndex pa bs).filter (·.2 != 0)

/-- A poisoned scalar. -/
def bad : SReg := SReg.bad { origin := 5, merged := false }

/-- Scalars s1, s2, s3, plain. -/
def three (x y z : Word) (b : Block) : Block :=
  ((b.ws 1 (SReg.plain x)).ws 2 (SReg.plain y)).ws 3 (SReg.plain z)

/-- The word of ADD s1, s2, s3. -/
def addWord : Memory := cellsAt (2 ^ 31) (natLe 4 0x04221800)

theorem witness_StepKeepsWellFormed : State.reset.wf = true ∧ (on id addWord).wf = true := by decide +kernel

theorem witness_DecodeOfEncode : wellFormed (.add 31 31 31) = true ∧ wellFormed (.fence 30) = true := by decide +kernel

theorem witness_EncodeOfDecode : decode 0xDC01801F#32 = some (.cntw 1 0x01F) := by decide +kernel

/-- An agenda, or none, before the same block. -/
def planned (s : State) (r : List Todo) : State := { s with dev := { s.dev with agenda := r } }

/-- A state some clocks later. -/
def ticked (s : State) : State :=
  { s with dev := { s.dev with clock := s.dev.clock + Config.stepClocks s.dev.fresh, fresh := s.dev.fresh + 1 } }

/-- A tick of a device on standby whose counters rest. -/
theorem tick_of {s : State} (hs : s.dev.svc.stage = .standby) (hi : s.dev.issues = []) (hw : s.dev.written = [])
    (hl : s.dev.late = false) (hc : s.dev.cores = []) : s.tick = ticked s := by
  have e (n : Nat) : s.dev.elapse n = { s.dev with clock := s.dev.clock + n } := by
    unfold Dev.elapse
    split
    · rename_i h
      simp [hs] at h
      simp [h]
    · rw [← hi, ← hw, ← hl, hc]
      simp [hc]
  simp only [State.tick, Dev.tick, hl, e, ticked]
  rfl

/-- StepRunsInstruction: fetched from memory and from the loop-capture buffer, a full history buffer, a word that means
nothing, a page that may not be executed, a block that waits, an event. -/
theorem witness_StepRunsInstruction :
    let k := block
    let key := k.id.key
    let s := planned (on id addWord) [.issue key]
    let u := ticked s
    let next : Dev := { u.dev with agenda := [] }
    let issuing (d : Dev) : State := { u with dev := d.spaced.wakeRows }
    let crowd : Dev := { next with others := List.replicate historySize { block with flight := some .lane } }
    let pa := (Work.start s).redirect (leaf.pa 0)
    let fetched (d : Dev) : State := ((Work.start (issuing d)).accessL2 (lineOf pa) false .plain).settle (issuing d)
    let l : LoopBuf := { words := [(4, 0x5C000002)], start := 0, last := 8 }
    s.tick = u ∧ s.dev.tidied ∧ next.spaced.canIssue k = true ∧ next.spaced.canIssue { k with run := .waiting } = false ∧
    k.batch = none ∧ s.dev.unc.upsets = [] ∧ k.loop = none ∧ k.pc.toNat < 2 ^ 48 ∧
    (Work.start s).cached k.space 0 = some leaf ∧ leaf.allows k.ps.pl .fetch = true ∧ regionOf pa ≠ 3 ∧
    ((Work.start (issuing next)).claim (lineOf pa) false).1 = true ∧
    decode (BitVec.ofNat 32 (s.mem.number pa 4)) = some (.add 1 2 3) ∧
    decode (BitVec.ofNat 32 ((on id).mem.number pa 4)) = none ∧ (fetched next).room (.add 1 2 3) ∧
    ((Work.start (issuing crowd)).claim (lineOf pa) false).1 = true ∧ ¬ (fetched crowd).room (.add 1 2 3) ∧
    ({ issuing next with dev := (issuing next).dev.countFor 13 1 } : State).room .exit ∧
    (let x : Leaf := { leaf with x := false }
     (Work.start (on id [] x)).cached k.space 0 = some x ∧ x.allows k.ps.pl .fetch = false) ∧
    l.at 4 = some 0x5C000002#32 ∧ decode 0x5C000002#32 = some .exit ∧
    (planned s [.event .placeGang]).dev.agenda = [.event .placeGang] := by
  simp only [Dev.tidied, State.room]
  refine ⟨tick_of rfl rfl rfl rfl rfl, ?_⟩
  decide +kernel

/-- A machine without launches whose hot-page windows begin when the next step does. -/
def quiet : State :=
  { on id addWord with
    dev := { devOf id with
      lu := Dev.reset.lu, unc := { (devOf id).unc with windows := .replicate 2 (Config.stepClocks 0) } } }

theorem quiet_tick : quiet.tick = ticked quiet := tick_of rfl rfl rfl rfl rfl

theorem quiet_windowsOwed : (ticked quiet).dev.windowsOwed = [] := by
  have h : ∀ die ∈ [0, 1], (ticked quiet).dev.windowOver die = false := by
    have e : (ticked quiet).dev.clock = 0 + Config.stepClocks 0 := rfl
    have w : (ticked quiet).dev.unc.windows.toList = [Config.stepClocks 0, Config.stepClocks 0] := rfl
    simp [Dev.windowOver, e, w, hotWindow]
  simp [Dev.windowsOwed, h]

/-- StepRunsInstruction, a step of its own accord: a block that may issue while nothing is owed, and a block whose
tile has come while no block may issue. -/
theorem witness_StepRunsInstruction_own :
    (quiet.tick.due = none ∧ quiet.tick.dev.nextIssuer = some { lid := 1, lin := 0 }) ∧
    (let s := on fun b => { b with run := .waiting, wait := .tile 1,
                                   t := b.t.set 1 { TileReg.reset with inbox := some Tile.none } }
     s.tick.due = some (.blockWake { lid := 1, lin := 0 }) ∧ s.tick.dev.nextIssuer = none) := by
  refine ⟨⟨?_, ?_⟩, ?_⟩
  · rw [quiet_tick, State.due, State.owed, quiet_windowsOwed]
    decide +kernel
  · rw [quiet_tick]
    have h : (ticked quiet).dev.issuers = [{ lid := 1, lin := 0 }] := by decide +kernel
    show ((ticked quiet).dev.issuers)[_ % ((ticked quiet).dev.issuers).length]? = _
    simp [h, Nat.mod_one]
  · intro s
    rw [show s.tick = ticked s from tick_of rfl rfl rfl rfl rfl]
    decide +kernel

/-- Plain operands with an ADDX sum inside and outside the range; divisors 0 and −1 at the least dividend. -/
theorem witness_ScalarArithmeticResult_and_DivisionResult :
    let k := (on (three 0x8000000000000000 (BitVec.allOnes 64) 7)).dev.blk
    k.plainS 1 ∧ k.plainS 2 ∧ k.plainS 3 ∧
    (k.sv 1).toInt = -2 ^ 63 ∧ (k.sv 2).toInt = -1 ∧ k.sv 0 = 0 ∧
    ((k.sv 0).toNat : Int) + (k.sv 2).toInt * 2 ^ 3 < 0 ∧ (2 : Int) ^ 64 ≤ (k.sv 1).toNat + (k.sv 1).toInt.natAbs ∧
    (0 : Int) ≤ (k.sv 1).toNat + (k.sv 2).toInt * 2 ^ 6 ∧ ((k.sv 1).toNat : Int) + (k.sv 2).toInt * 2 ^ 6 < 2 ^ 64 ∧
    (2 : Int) ^ 64 ≤ (k.sv 2).toNat + (k.sv 3).toInt * 2 ^ 6 ∧
    mergePoison ((k.ws 4 bad).rs 4).poison (k.rs 1).poison = some { origin := 5, merged := false } := by
  simp only [Block.plainS]; decide +kernel

theorem witness_ScalarBitsResult :
    let k := (on (three 0x8000000000000000 (BitVec.allOnes 64) 64)).dev.blk
    k.plainS 1 ∧ k.plainS 2 ∧ k.plainS 3 ∧ k.plainS 0 ∧ (k.sv 3).toNat % 64 = 0 ∧ (k.sv 2).toNat % 64 = 63 := by
  simp only [Block.plainS]; decide +kernel

theorem witness_ScalarPoisonMerges :
    let e : Crumb := { origin := 5, merged := false }
    let k := ((block.ws 1 bad).ws 2 (SReg.bad { origin := 3, merged := false })).wp 3 { val := false, poison := some e }
    mergePoison (k.rs 1).poison (k.rs 2).poison = some { origin := 3, merged := true } ∧
    mergePoison (k.rs 4).poison (mergePoison (k.rs 1).poison (k.rs 2).poison) = some { origin := 3, merged := true } ∧
    (k.rs 1).poison = some e ∧ (k.rp_ 3).poison = some e ∧ k.plainP 0 ∧ k.plainP 7 ∧ (k.rp_ 0).val = true ∧
    (k.rp_ 7).val = false := by
  simp only [Block.plainP]; decide +kernel

theorem witness_PredicateResult :
    let e : Crumb := { origin := 5, merged := false }
    let k := ((block.ws 1 bad).ws 2 (SReg.plain 9)).wp 3 { val := false, poison := some e }
    k.plainS 0 ∧ k.plainS 2 ∧ k.plainP 0 ∧ k.plainP 7 ∧ mergePoison (k.rs 1).poison (k.rs 2).poison = some e ∧
    (k.rs 1).poison = some e ∧ mergePoison (k.rp_ 3).poison (k.rp_ 0).poison = some e ∧ (k.rp_ 3).poison = some e := by
  simp only [Block.plainS, Block.plainP]; decide +kernel

/-- ScalarFrame: an instruction of each list, with the state that it answers. -/
theorem witness_ScalarFrame :
    (∃ t, exec (.add 0 1 2) (on id) = .next t) ∧ (∃ t, exec (.bfi 31 1 2 0) (on id) = .next t) ∧
    (∃ t, exec (.pmov 0 7) (on id) = .next t) := ⟨⟨_, rfl⟩, ⟨_, rfl⟩, ⟨_, rfl⟩⟩

/-- TransferResult: predicates and counters of each kind, an address that is no word's, and the loop-capture buffer of
this LOOP and of another. -/
theorem witness_TransferResult :
    let k := three 0 6 8 block
    let mine : LoopBuf := { words := [], start := 0, last := 0 }
    let b := { k with loop := some mine }
    k.plainP 0 ∧ k.plainP 1 ∧ k.plainS 1 ∧ k.plainS 2 ∧ k.plainS 3 ∧ (k.sv 2).toNat % 4 ≠ 0 ∧ (k.sv 3).toNat % 4 = 0 ∧
    (k.sv 1).toNat ≤ 1 ∧ k.loop = none ∧ 1 < (k.sv 2).toNat ∧ b.loop = some mine ∧ mine.last = b.pc ∧
    { mine with last := 4 }.last ≠ b.pc := by
  simp only [Block.plainS, Block.plainP]; decide +kernel

/-- TransferResult: a body of two words in a page that the core's unit holds, that LOOP captures. -/
theorem witness_TransferResult_captured :
    let s := on fun b => { three 0 6 8 b with pc := 64 }
    s.dev.calm ∧ ((Work.start s).capture 56 64).1 = true ∧ (∀ x ∈ [56, 60], x < 2 ^ 48 ∧
      (Work.start s).cached s.dev.blk.space x = some leaf ∧ s.ownLine (lineOf (leaf.pa x))) := by
  simp only [Dev.calm, State.ownLine]; decide +kernel

theorem witness_TransferPoisonTraps :
    let k := (block.ws 1 bad).wp 3 { val := false, poison := some { origin := 0, merged := false } }
    (k.rp_ 3).poison ≠ none ∧ (k.rs 1).poison ≠ none ∧ ({ k.csr with trapvec := 64 } : Csr).trapvec ≠ 0 ∧
    k.ps.intrap = false := by decide +kernel

/-- TrapEntryResult: a handler for a cause of class H; a cause of class K, no handler, a trap inside a handler, each in
a launch that is there. -/
theorem witness_TrapEntryResult :
    let s := on fun b => { b with csr := { b.csr with trapvec := 64 } }
    let u := on fun b => { b with csr := { b.csr with trapvec := 64 }, ps := { b.ps with intrap := true } }
    Cause.trap.kills = false ∧ s.dev.blk.csr.trapvec ≠ 0 ∧ s.dev.blk.ps.intrap = false ∧ 127 < 128 ∧
    2 ^ 32 - 1 < 2 ^ 32 ∧ Cause.illegal.kills = false ∧ Cause.frameExhausted.kills = true ∧
    (on id).dev.blk.csr.trapvec = 0 ∧ u.dev.blk.ps.intrap = true ∧
    s.dev.launch s.dev.blk.id.key.lid = some launch1 := by decide +kernel

theorem witness_TrapReturnExitWait :
    let k := (three 0 (2 ^ 32 - 1) (2 ^ 32) block).ws 4 bad
    let r : Preempt := { area := 0, resume := 0, begun := false }
    let a := { k with ps := { k.ps with intrap := true, notice := true }, preempt := some r,
                      csr := { k.csr with trapvec := 64, trappc := 6 } }
    k.csr.trapvec = 0 ∧ a.csr.trapvec ≠ 0 ∧ k.ps.intrap = false ∧ k.stop = none ∧ a.ps.intrap = true ∧ k.csr.trappc.toNat % 4 = 0 ∧
    a.csr.trappc.toNat % 4 ≠ 0 ∧ a.ps.notice = true ∧ k.ps.notice = false ∧ a.preempt = some r ∧ k.preempt = none ∧
    (devOf id).launch k.id.key.lid = some launch1 ∧ (∀ q ∈ k.queues.toList, q.st ≠ .filling ∧ q.st ≠ .faulted) ∧
    k.plainS 1 ∧ (k.sv 2).toNat < 2 ^ 32 ∧ 2 ^ 32 ≤ (k.sv 3).toNat ∧ (k.rs 4).poison ≠ none ∧ k.plainS 2 ∧
    k.plainS 3 := by
  simp only [Block.plainS]; decide +kernel

theorem witness_ControlRegisterReads :
    let k := block.ws 1 bad
    let firm := { k with ps := { k.ps with pl := .firm } }
    k.id.x < 2 ^ 16 ∧ k.id.y < 2 ^ 16 ∧ k.id.z < 2 ^ 16 ∧ k.id.member < 64 ∧ k.place.core < 2 ^ 9 ∧ k.place.part < 4 ∧
    k.place.lane < 128 ∧ k.place.share < 256 ∧ k.id.gang < 2 ^ 32 ∧ k.id.gangSize < 128 ∧ k.id.ctx < 4096 ∧
    k.id.asid < 65536 ∧ (devOf id).launch k.id.key.lid = some launch1 ∧ firm.ps.pl = .firm ∧ k.ps.pl = .user ∧
    k.ps.pl ≠ .firm ∧ (0x030#12).toNat ∈ [0x010, 0x015, 0x020, 0x021, 0x022, 0x023, 0x024, 0x025, 0x026, 0x027, 0x028, 0x030] ∧
    (2#12).toNat ≤ 2 ∧ (k.rs 1).poison ≠ none ∧ (6#12).toNat ≤ 6 := by decide +kernel

theorem witness_ControlRegisterWrites :
    let k := { block with ps := { block.ps with pl := .firm } }
    ((0x201, 0xFFFFFFFFFFFFF01F, 2) : Nat × Word × Nat) ∈ ([(0x000, BitVec.allOnes 64, 0), (0x001, 0x7FF, 0),
      (0x201, 0xFFFFFFFFFFFFF01F, 2)] : List (Nat × Word × Nat)) ∧
    k.plainS 1 ∧ 2 ≤ k.ps.pl.code ∧ 0 ≤ block.ps.pl.code ∧ k.ps.pl = .firm := by
  simp only [Block.plainS]; decide +kernel

theorem witness_CounterResult :
    let k := { block with ps := { block.ps with pl := .firm } }
    let c := (devOf fun _ => k).core k.place.core
    (devOf fun _ => k).launch k.id.key.lid = some launch1 ∧ k.ps.pl ≠ .user ∧ k.ps.pl = .firm ∧ k.plainS 1 ∧
    (0x100 ≤ (0x105#12).toNat ∧ (0x105#12).toNat ≤ 0x105) ∧ 0x2FF ≤ (0x2FF#12).toNat ∧ (0x16F#12).toNat % 16 = 15 ∧
    (0x166#12).toNat % 16 ≤ 6 ∧ 0x317 ≤ (0x317#12).toNat ∧ 0x337 ≤ (0x337#12).toNat ∧
    (c.pmsel[7]).getLsbD 8 = false := by
  simp only [Block.plainS]; decide +kernel

/-- A queue table at 0 whose entry `e` names a queue of 16 slots with its control area at 0x10000, and the two counts
of that queue. -/
def queueAt (e made used : Nat) : Memory :=
  cellsAt (64 * e) (natLe 8 0x10000 ++ [4, 1]) ++ cellsAt 0x10000 (natLe 8 made) ++ cellsAt 0x10080 (natLe 8 used)

/-- ScalarLoadResult: a load of every size with an ordinary write queued; a poisoned line; what each trap supposes; an
address that no translation may have, with a fault queue that has a free slot. -/
theorem witness_ScalarLoadResult :
    let s := on fun b => { three 248 7 (2 ^ 48) b with
      pend := [{ slice := 16, line := 5, kind := .bytes [(640, 1)], poison := false, bypass := false }] }
    let k := s.dev.blk
    let x : Leaf := { leaf with r := false, w := false }
    let u := on (three 248 7 (2 ^ 48)) (queueAt 16 3 0)
    let v := { u with tags := [(2 ^ 24 + 1, 0x8000)] }
    let at_ : Nat := (248 + 0) % 2 ^ 64
    (∀ y ∈ scalarLoads 1 1 0 0 0, at_ % y.2.1 = 0) ∧ k.plainS 1 ∧ k.plainS 0 ∧ s.dev.calm ∧ s.sees k.scalarUnit at_ .read leaf ∧
    s.ownLine (lineOf (leaf.pa at_)) ∧ (∀ e ∈ k.pend, Os.kind 0 ≠ .sc ∧ e.line ≠ lineOf (leaf.pa at_)) ∧
    (1 : Reg) ≠ 0 ∧ v.dev.calm ∧ v.sees k.scalarUnit at_ .read leaf ∧ lineOf (leaf.pa at_) = 2 ^ 24 + 1 ∧
    (v.tags.read (2 ^ 24 + 1)).getLsbD 15 = true ∧ metaState (v.tags.read (2 ^ 24 + 1)) = 0 ∧ v.dev.blk.pend = [] ∧
    ((v.dev.logBase 0).extractLsb' 0 5 = 0) ∧
    (∀ y ∈ (scalarLoads 1 1 2 0 0).drop 1, y.2.1 = 1 ∨ (248 + 7) % y.2.1 ≠ 0) ∧ (k.ws 4 bad |>.rs 4).poison ≠ none ∧
    (Work.start (on id [] x)).cached k.space 248 = some x ∧ x.allows k.ps.pl .read = false ∧
    x.allows k.ps.pl .write = false ∧ k.csr.poisoncfg.extractLsb' 0 2 = 0 ∧ (k.sv 2).toNat % 4 ≠ 0 ∧
    (∀ y ∈ scalarStores 3 3 0 0 0, 2 ^ 48 % y.2 = 0) ∧ 2 ^ 48 ≤ (k.sv 3).toNat ∧ k.waitsOn = none ∧
    (∀ va ∈ [2 ^ 48, 2 ^ 40], let found := (Work.start u).translate k.space va
      found.1 = .fault ∧ found.2.dev.fq.held = [] ∧
      ∃ q, found.2.queueDesc (16 + k.id.fn) = some q ∧ q.control = 0x10000 ∧ q.slots = 16 ∧
        found.2.ownLe q.control 8 - found.2.le (q.control + 128) 8 < q.slots) ∧
    (let w := Work.start u
     let pa := w.redirect (4096 + 16 * levelIndex 1 (2 ^ 40))
     w.cached k.space (2 ^ 40) = none ∧ (w.walk k.space (2 ^ 40) 4 0 k.id.root).1 = .fault ∧
     w.cachedTable k.space 1 (2 ^ 40) = none ∧ (w.claim (lineOf pa) false).1 = true ∧ w.dev.calm ∧ w.le pa 1 % 2 = 0) := by
  simp only [Block.plainS, Dev.calm, State.sees, State.ownLine]
  and_intros <;> first
    | decide +kernel
    | (intro va h
       obtain rfl | h := List.mem_cons.mp h
       · exact ⟨by decide +kernel, by decide +kernel, _, rfl, by decide +kernel⟩
       · obtain rfl := List.mem_singleton.mp h
         exact ⟨by decide +kernel, by decide +kernel, _, rfl, by decide +kernel⟩)

theorem witness_ScalarStoreQueues :
    let w : Pend := { slice := 16, line := 5, kind := .bytes [(640, 1)], poison := false, bypass := false }
    let s := on fun b => { (three 248 7 0 b).ws 4 { val := 0, poison := some { origin := 5, merged := false } } with
      pend := [w], csr := { b.csr with poisoncfg := 1 } }
    let k := s.dev.blk
    let l : Leaf := { leaf with type := .strong }
    let u := on (three 248 7 0) [] l
    let full : State := { u with dev := { u.dev with
      others := [{ block with id := { block.id with key := { lid := 1, lin := 1 } }, pend := .replicate 16 w }] } }
    (full.dev.blk.pend = [] ∧ 0 < full.dev.queueRoom 16 ∧ full.dev.queueRoom 16 ≤ full.dev.entriesOf 16) ∧
    s.dev.entriesOf 16 < s.dev.queueRoom 16 ∧
    (∀ y ∈ scalarStores 2 1 0 0 13, 248 % y.2 = 0) ∧ k.plainS 1 ∧ k.plainS 0 ∧ k.plainS 2 ∧ s.dev.link.reqs = [] ∧
    s.sees k.scalarUnit 248 .write leaf ∧ Os.kind 13 = .rel ∧ Os.kind 1 = .rlx ∧ k.pend ≠ [] ∧ (k.rs 4).poison ≠ none ∧ k.sv 4 = 0 ∧
    k.csr.poisoncfg.extractLsb' 0 2 = 1 ∧ u.dev.blk.pend = [] ∧ u.dev.calm ∧ l.inOrder = true ∧
    (Work.start u).cached u.dev.blk.space 248 = some l ∧ l.allows u.dev.blk.ps.pl .write = true ∧ 65536 ∣ l.base ∧
    65536 ∣ l.size ∧ u.dev.blk.waitsOn = none ∧ u.freeLine (lineOf (l.pa 248)) := by
  simp only [Block.plainS, Dev.calm, State.sees, State.freeLine, State.ownLine]; decide +kernel

/-- WritePerformedResult: a write of 128 bytes and one of 8 behind an older one of another slice; a queue without the
slice, a write that its line holds back, a mark that an older write holds back. -/
theorem witness_WritePerformedResult :
    let a : Pend := { slice := 3, line := 5, kind := .bytes [(640, 1)], poison := false, bypass := false }
    let e : Pend := { slice := 16, line := 6, kind := .bytes ((List.range 128).map fun j => (768 + j, 1)), poison := true, bypass := false }
    let m : Pend := { slice := 17, line := 0, kind := .mark true, poison := false, bypass := false }
    let s := on fun b => { b with pend := [a] ++ e :: [m] }
    s.dev.blk.pend = [a] ++ e :: [m] ∧ (∀ x ∈ [a], x.slice ≠ e.slice ∧ x.line ≠ e.line ∧ ∀ r, x.kind ≠ .mark r) ∧
    (∀ c ∈ (List.range 128).map fun j => (768 + j, (1 : Byte)), lineOf c.1 = e.line) ∧
    (((List.range 128).map fun j => (768 + j, (1 : Byte))).map (·.1)).Nodup ∧ s.dev.calm ∧
    (e.line + 1) * 128 ≤ 3 * 2 ^ 60 ∧ metaState (s.tags.read e.line) = 0 ∧ (Work.start s).hostFree e.line = true ∧
    (∀ x ∈ [a, e], x.slice ≠ 4 ∧ ∀ r, x.kind ≠ .mark r) ∧ { e with line := 5 }.line = a.line ∧
    (∀ x ∈ [a], x.slice ≠ 16 ∧ ∀ r, x.kind ≠ .mark r) ∧ m.kind = .mark true ∧ [a] ≠ [] := by
  simp only [Dev.calm]; decide +kernel

theorem witness_AmoResult :
    let s := on (three 248 (BitVec.allOnes 64) 0)
    let k := s.dev.blk
    (9#4).toNat ≤ 9 ∧ k.plainS 1 ∧ k.plainS 2 ∧ k.plainS 3 ∧ 248 % (64 / 8) = 0 ∧ s.dev.calm ∧ s.sees k.scalarUnit 248 .atomic leaf ∧
    s.freeLine (lineOf (leaf.pa 248)) ∧ k.pend = [] := by
  simp only [Block.plainS, Dev.calm, State.sees, State.freeLine, State.ownLine]; decide +kernel

/-- AmoResult, the floating add: operands without and with a NaN sum, which is poison under GENNAN in a context without a
log. -/
theorem witness_AmoResult_float :
    let s := on (fun b => { three 248 0xFF800000 0 b with csr := { b.csr with poisoncfg := 4 } }) (cellsAt (2 ^ 31 + 248) (natLe 4 0x7F800000))
    let k := s.dev.blk
    let old := s.mem.number (leaf.pa 248) 4
    let nan (p : Nat) : Prop := Fmt.single.value p = .nan
    k.plainS 1 ∧ k.plainS 2 ∧ 248 % (32 / 8) = 0 ∧ s.dev.calm ∧ s.sees k.scalarUnit 248 .atomic leaf ∧
    s.freeLine (lineOf (leaf.pa 248)) ∧ k.pend = [] ∧ block.noGen ∧ ¬ k.noGen ∧ ¬ nan old ∧ ¬ nan 0xFF800000 ∧
    nan (Fmt.single.pack .rne (Machine.Num.add .rne (Fmt.single.value old) (Fmt.single.value 0xFF800000))) ∧
    (s.dev.logBase k.id.ctx).extractLsb' 0 5 = 0 := by
  simp only [Block.plainS, Block.noGen, Dev.calm, State.sees, State.freeLine, State.ownLine]; decide +kernel

/-! ### Shapes and tiles -/

/-- A record of a fixed shape. -/
def shaped (code : BitVec 5) (rows cols : Nat) : ShapeRec :=
  { code := code, grant := false, dead := false, stale := false, rowsM1 := BitVec.ofNat 11 (rows - 1), cols := BitVec.ofNat 16 cols }

/-- A version of that shape with the patterns `es` and the block scales `sc`. -/
def version (r : ShapeRec) (es : List Nat) (sc : List Nat := []) : Tile :=
  { Tile.none with empty := false, tag := r.tag, rows := r.rows, cols := r.ncols, elems := es.map .bits, scales := sc }

/-- Tile `t` bound to record `h`, which is `r`, with version `v`. -/
def bind (t : TileNo) (h : RecNo) (r : ShapeRec) (v : Tile) (b : Block) : Block :=
  { b with h := b.h.setIfInBounds h.toNat r,
           t := b.t.setIfInBounds t.toNat { TileReg.reset with bound := some h, ver := v } }

/-- Tiles t1, t2, t3, t4 of one shape, the first with plain numbers, the second with a tag's largest pattern. -/
def tiles (r : ShapeRec) (b : Block) : Block :=
  bind 4 4 r Tile.none (bind 3 3 r Tile.none
    (bind 2 2 r (version r (List.replicate r.size (2 ^ r.tag.width - 1)))
      (bind 1 1 r (version r (List.range r.size)) b)))

/-- Whether no element of a version is poison. -/
def allBits (b : Block) (t : TileNo) (r : ShapeRec) : Bool :=
  ((b.tile t).ver.elements r).all fun x => match x with
    | .bits _ => true
    | .poison _ => false

theorem sound_of {b : Block} {t : TileNo} {r : ShapeRec} (h : allBits b t r = true) : b.sound t r := by
  intro x hx
  have := List.all_eq_true.mp h x hx
  match x with
  | .bits p => exact ⟨p, rfl⟩

/-- A SHAPE descriptor: code, rows, columns. -/
def descriptor (code rows cols : Nat) : Word := BitVec.ofNat 64 (code + 2 ^ 8 * (rows - 1) + 2 ^ 19 * cols)

theorem witness_ShapeNegotiation :
    let k := (three 128 (descriptor 17 1536 65535) 5 block).ws 4 bad
    let d : Nat := (k.sv 2).toNat
    let valid (d : Nat) : Prop := d / 2 ^ 7 % 2 = 0 ∧ d / 2 ^ 35 = 0 ∧ 1 ≤ d % 32 ∧ d % 32 ≤ 17 ∧
      d / 2 ^ 8 % 2 ^ 11 ≤ 1535 ∧ (d / 2 ^ 5 % 2 = 1 ↔ d / 2 ^ 19 % 2 ^ 16 = 0)
    (k.rs 4).poison ≠ none ∧ k.plainS 1 ∧ k.plainS 2 ∧ k.plainS 3 ∧ k.plainS 0 ∧
    (k.sv 1).toNat ∈ [0, 4, 8, 16, 32, 128] ∧ (k.sv 0).toNat ∈ [0, 4, 8, 16, 32, 128] ∧
    (k.sv 3).toNat ∉ [0, 4, 8, 16, 32, 128] ∧ valid d ∧ valid (7 + 2 ^ 5) ∧ ¬ valid 18 ∧ ¬ valid 1 ∧
    min 32 ((devOf id).core 0).shareCap ≤ (devOf id).blk.place.share ∧ (devOf id).blk.place.share < min 128 ((devOf id).core 0).shareCap := by
  simp only [Block.plainS]; decide +kernel

/-- ShapeNegotiation, the lanes: a widening that stops short of a fenced group, one that another block bars, a share that
narrows, and a block of 128 lanes that goes past a partition with a fenced group. -/
theorem witness_ShapeNegotiation_lanes :
    let at_ (share lane : Nat) (fenced : BitVec 16) : Dev :=
      let d := devOf fun b => { b with place := { b.place with share := share, lane := lane } }
      { d with cores := [(0, { Core.reset with fenced := fenced })] }
    let d := at_ 8 0 4
    let e : Dev := { at_ 4 0 0 with
      others := [{ block with id := { block.id with key := { lid := 1, lin := 1 } }, place := { block.place with lane := 4, share := 4 } }] }
    d.blk.place.share < min 128 (d.core 0).shareCap ∧ 8 < d.negotiate 128 ∧ d.negotiate 128 < 32 ∧
    (d.core 0).fenced.getLsbD 2 = true ∧ e.blk.place.share < min 32 (e.core 0).shareCap ∧ e.negotiate 32 = 4 ∧
    (∃ b ∈ e.blocks, b.resident = true ∧ b.id.key ≠ e.blk.id.key ∧ b.place.core = e.blk.place.core) ∧
    (let p := (at_ 32 0 0).blk.place
     (at_ 32 0 0).negotiate 8 < p.share ∧ p.share ≤ 32 ∧ (at_ 32 0 0).negotiate 8 ∣ p.share ∧ p.share ∣ p.lane) ∧
    (at_ 128 0 1).negotiate 32 < (at_ 128 0 1).blk.place.share ∧
    (∀ g, g < 4 → ((at_ 128 0 1).core 0).fenced.getLsbD (4 * 1 + g) = false) ∧
    ∀ r, r < 1 → ∃ g, g < 4 ∧ ((at_ 128 0 1).core 0).fenced.getLsbD (4 * r + g) = true := by decide +kernel

/-- ShapeResult: a SHAPE that fits, with a tile bound to its record and one bound to another; a version relaid to more rows,
to other columns, an empty one, and one of another tag; bound and unbound tiles, records with and without a tag. -/
theorem witness_ShapeResult :
    let k := three 32 (descriptor 16 8 16) 0 (tiles (shaped 16 4 16) block)
    let old := shaped 16 4 16
    let v := version old (List.range 64)
    k.plainS 1 ∧ k.plainS 2 ∧ (k.sv 1).toNat ∈ [0, 4, 8, 16, 32, 128] ∧ descriptorOk (k.sv 2) = true ∧
    k.fits (k.relayCost 1 (recordOf (k.sv 2) 16)) = true ∧ (devOf fun _ => k).unc.upsets = [] ∧
    old.code ≠ (shaped 2 4 16).code ∧ old.code = (shaped 16 8 16).code ∧ old.cols = (shaped 16 8 16).cols ∧
    Tile.none.empty = true ∧ v.empty = false ∧ v.tag = (shaped 16 8 16).tag ∧ v.rows = old.rows ∧ v.cols = old.ncols ∧
    v.kept = 0 ∧ v.elems.length = v.rows * v.cols ∧ (∀ e ∈ v.elems, ∃ n, e = .bits n) ∧
    (k.tile 1).bound = some 1 ∧ (k.tile 2).bound ≠ some 1 ∧ (devOf fun _ => k).direct ∧
    old.cols ≠ (shaped 16 4 8).cols ∧ (shaped 16 4 8).tag = v.tag ∧ (shaped 16 4 8).tag.narrow = false ∧
    (let w := version (shaped 9 2 32) (List.replicate 64 3) [127, 130]
     (shaped 9 2 64).tag.narrow = true ∧ (shaped 9 2 64).cols ≠ (shaped 9 2 32).cols ∧ w.tag = (shaped 9 2 64).tag ∧
       w.elems.length = w.rows * w.cols) ∧
    k.h[(1#4).toNat].code ≠ 0 ∧ k.h[(9#4).toNat].code = 0 ∧ (k.tile 1).bound ≠ none ∧ (k.tile 9).bound = none := by
  simp only [Block.plainS, Dev.direct]
  and_intros <;> try decide +kernel
  intro e h
  simp only [version, List.mem_map] at h
  obtain ⟨n, _, rfl⟩ := h
  exact ⟨n, rfl⟩

/-- IntegerTileResult: signed and unsigned tiles of one tag, one of them empty. -/
theorem witness_IntegerTileResult :
    let r := shaped 12 2 16
    let k := tiles r block
    let u := shaped 17 2 16
    let j := tiles u block
    r.tag.isInt = true ∧ u.tag.isInt = true ∧ (∀ t ∈ [1, 2, 3, 4], k.names t r ∧ j.names t u) ∧ k.room r ∧ j.room u ∧
    k.plainM 0 ∧ (1#3).toNat ≤ 1 ∧ k.sound 1 r ∧ k.sound 2 r ∧ k.sound 3 r ∧ j.sound 1 u ∧ j.sound 2 u := by
  simp only [Block.names, Block.room, Block.plainM]
  and_intros <;> first | exact sound_of (by decide +kernel) | decide +kernel

/-- FloatTileResult: tiles of each pair of tags that the promotion takes; integer and MX sources with them. -/
theorem witness_FloatTileResult :
    let r := shaped 2 2 16
    let k := bind 5 5 (shaped 14 2 16) Tile.none (bind 6 6 (shaped 9 2 16) Tile.none (tiles r block))
    let g := tiles (shaped 1 2 16) block
    let p : Block := { k with m := k.m.set 3 { n := 32, fill := false, bits := 0, poison := some { origin := 5, merged := false } } }
    r.tag.isFloat = true ∧ r.tag.narrow = false ∧ (∀ t ∈ [1, 2, 3], k.names t r) ∧ k.names 6 (shaped 9 2 16) ∧
    k.names 5 (shaped 14 2 16) ∧ k.room r ∧ k.plainM 0 ∧ k.noGen ∧ k.sound 1 r ∧ k.sound 2 r ∧ k.sound 3 r ∧
    promote [r.tag, r.tag] = some .fp32 ∧ promote [r.tag, r.tag, r.tag] = some .fp32 ∧
    (∃ q, promote [(shaped 14 2 16).tag, r.tag] = some q ∧ q.isFloat = true) ∧ promote [r.tag] = some .fp32 ∧
    (∃ q, promote [(shaped 9 2 16).tag] = some q ∧ q.isFloat = true) ∧
    (∀ x ∈ elementInstrs 3 1 2 0 0, x.2.1 = [1, 2] ∨ x.2.1 = [1, 2, 3] ∨ x.2.1 = [1]) ∧ (elementInstrs 3 1 2 0 0).length = 19 ∧
    (p.rm_ 3).poison = some { origin := 5, merged := false } ∧ g.room (shaped 1 2 16) := by
  simp only [Block.names, Block.room, Block.plainM, Block.noGen]
  and_intros <;> first | exact sound_of (by decide +kernel) | decide +kernel | exact ⟨.fp32, by decide +kernel⟩

/-- ElementwisePoisonAndTraps: a source with poison; infinities of both signs under GENNAN with a crumb log; a tile without
a record, tags that do not combine, a STALE record, another shape, no rows. -/
theorem witness_ElementwisePoisonAndTraps :
    let r := shaped 2 2 16
    let e : Elem := .poison { origin := 5, merged := false }
    let k := bind 1 1 r { version r [] with elems := List.replicate 32 e } (tiles r block)
    let inf (p : Nat) := version r (List.replicate 32 p)
    let g (b : Block) : Block := bind 2 2 r (inf 0xFF800000) (bind 1 1 r (inf 0x7F800000) (tiles r
      { b with csr := { b.csr with poisoncfg := 4 } }))
    let d : Dev := { devOf g with logbase := [(0, 0x10007)] }
    let s : State := { mem := cellsAt 0x10000 [1], tags := [], dev := d }
    let full : Block := { k with place := { k.place with rows := 0 } }
    let odd := bind 5 5 (shaped 16 2 16) Tile.none (bind 6 6 { r with stale := true } Tile.none
      (bind 7 7 (shaped 2 3 16) Tile.none k))
    (k.names 1 r ∧ k.names 2 r ∧ k.names 3 r ∧ k.room r ∧ k.plainM 0 ∧ k.noGen ∧ promote [r.tag, r.tag] = some .fp32 ∧
      Tag.fp32.isFloat = true ∧ (((k.tile 1).ver.elements r)[0]?).bind Elem.crumb = some { origin := 5, merged := false }) ∧
    (s.dev.blk.names 1 r ∧ s.dev.blk.names 2 r ∧ s.dev.blk.names 3 r ∧ s.dev.blk.sound 1 r ∧ s.dev.blk.sound 2 r ∧
      s.dev.blk.csr.poisoncfg.getLsbD 2 = true ∧ (s.dev.logBase 0).toNat % 32 = 7 ∧
      (s.dev.logBase 0).toNat / 4096 * 4096 = 0x10000 ∧ 0x10000 < 2 * 2 ^ 60 ∧ s.mem.number 0x10000 4 = 1 ∧ 1 < 2 ^ 7 - 1 ∧
      s.mem.number 0x10008 4 + 1 < 2 ^ 32 ∧ s.dev.blk.number 1 r .fp32 31 = .inf false ∧
      s.dev.blk.number 2 r .fp32 31 = .inf true ∧ s.dev.calm ∧
      ∀ x, s.dev.inCrumbLog x → (Work.start s).inWindow (lineOf x) = false) ∧
    (odd.recOf 9 = none ∧ odd.recOf 1 = some r ∧ Tag.int32.isInt = true ∧ (2#3).toNat > 1 ∧
      odd.recOf 6 = some { r with stale := true } ∧ (shaped 2 3 16).rows ≠ r.rows ∧ odd.recOf 7 = some (shaped 2 3 16) ∧
      ¬ full.room r) := by
  simp only [Block.names, Block.room, Block.plainM, Block.noGen]
  and_intros <;> first
    | exact sound_of (by decide +kernel)
    | exact fun _ _ => rfl
    | decide +kernel

theorem witness_CompareSelectResult :
    let r := shaped 12 2 16
    let f := shaped 2 2 16
    let k := tiles r block
    let j := tiles f block
    k.names 1 r ∧ k.names 2 r ∧ k.plainM 0 ∧ k.sound 1 r ∧ k.sound 2 r ∧ promote [r.tag, r.tag] = some .int8 ∧
    Tag.int8.isInt = true ∧ k.fits (ceilDiv r.size k.place.width) = true ∧ (5#3).toNat ≤ 5 ∧ 6 ≤ (6#3).toNat ∧
    j.names 1 f ∧ j.names 2 f ∧ j.sound 1 f ∧ j.sound 2 f ∧ promote [f.tag, f.tag] = some .fp32 ∧
    j.fits (ceilDiv f.size j.place.width) = true ∧ j.names 3 f ∧ j.room f ∧ j.noGen ∧ f.tag.narrow = false ∧
    k.names 3 r ∧ k.room r ∧ k.noGen := by
  simp only [Block.names, Block.room, Block.plainM, Block.noGen]
  and_intros <;>
    first | exact sound_of (by decide +kernel) | decide +kernel

/-- ConversionResult: a destination of a plain tag and one of an MX tag, from plain and MX sources; SR with a plain
stream. Its other parts: an integer tag, and blocks with poison and with several numbers. -/
theorem witness_ConversionResult :
    let r := shaped 2 2 32
    let x := shaped 9 2 32
    let k := bind 5 5 x (version x (List.replicate 64 3) [127, 255]) (bind 6 6 x Tile.none (tiles r block))
    let c : Crumb := { origin := 5, merged := false }
    (∀ q ∈ [1, 3], k.names q r) ∧ (∀ q ∈ [5, 6], k.names q x) ∧ k.room r ∧ k.room x ∧ k.plainM 0 ∧ k.noGen ∧ k.plainS 1 ∧
    k.sound 1 r ∧ k.sound 3 r ∧ k.sound 5 x ∧ (5#3).toNat = 5 ∧ r.tag.narrow = false ∧ x.tag.narrow = true ∧
    Tag.int4.isInt = true ∧ Tag.e2m1.narrow = true ∧
    [Cell.same (.poison c) (.bad c)].foldl (fun a c => mergePoison a c.val.poison) none = some c ∧
    ∀ c ∈ [Cell.new (.num (.fin false 3 0 false)) true .rne, .new (.num (.fin true 40 0 false)) true .rtz,
      .same (.bits 0) (.num (.zero false))], c.val.poison = none := by
  simp only [Block.names, Block.room, Block.plainM, Block.noGen, Block.plainS]
  and_intros <;> first | exact sound_of (by decide +kernel) | decide +kernel

theorem witness_MovementResult :
    let r := shaped 16 2 16
    let f := shaped 2 2 16
    let q := shaped 16 16 2
    let x := shaped 9 2 32
    let k := bind 7 7 x (version x (List.replicate 64 3) [127, 255]) (bind 8 8 x Tile.none (bind 6 6 f Tile.none
      (bind 5 5 q (version q (List.range 32)) (three (BitVec.allOnes 64) 1 0 (tiles r block)))))
    k.names 1 r ∧ k.names 3 r ∧ k.names 5 q ∧ k.names 6 f ∧ k.names 7 x ∧ k.names 8 x ∧ k.room r ∧ k.room x ∧ k.plainM 0 ∧
    k.noGen ∧ k.plainS 1 ∧ k.plainS 2 ∧ f.tag.fmt.looksPoison ((k.sv 2).toNat % 2 ^ 32) = false ∧ k.sound 1 r ∧
    k.sound 3 r ∧ k.sound 5 q ∧ q.rows = r.ncols ∧ q.ncols = r.rows ∧ r.tag.isInt = true ∧
    (k.tile 7).ver.empty = false ∧ x.size ≤ (k.tile 7).ver.elems.length ∧
    x.rows * blocksOf x.ncols ≤ (k.tile 7).ver.scales.length := by
  simp only [Block.names, Block.room, Block.plainM, Block.noGen, Block.plainS]
  and_intros <;>
    first | exact sound_of (by decide +kernel) | decide +kernel

theorem witness_ReductionResult :
    let r := shaped 12 2 5
    let col := shaped 16 2 1
    let row := shaped 16 1 5
    let k := bind 5 5 col Tile.none (bind 6 6 row Tile.none (tiles r block))
    k.names 1 r ∧ k.names 3 r ∧ k.names 5 col ∧ k.names 6 row ∧ k.room r ∧ k.room col ∧ k.room row ∧ k.plainM 0 ∧
    k.noGen ∧ k.sound 1 r ∧ 0 < r.ncols ∧ (5#3).toNat ≤ 5 ∧ r.tag.reductionType.isFloat = false ∧
    (shaped 3 2 5).tag.reductionType.isFloat = true ∧ (2#3).toNat ≤ 2 ∧ col.rows = r.rows ∧ col.ncols = 1 ∧ row.rows = 1 ∧
    row.ncols = r.ncols := by
  simp only [Block.names, Block.room, Block.plainM, Block.noGen]
  and_intros <;>
    first | exact sound_of (by decide +kernel) | decide +kernel

theorem witness_CompactionResult :
    let r := shaped 12 2 16
    let n := shaped 17 2 16
    let x := shaped 9 1 32
    let e : Crumb := { origin := 5, merged := false }
    let k := bind 5 5 n Tile.none (bind 6 6 x (version x (List.replicate 32 3) [127])
      (bind 7 7 r { version r [] with elems := List.replicate 32 (.poison e) } (three 31 32 0 (tiles r block))))
    k.names 1 r ∧ k.names 3 r ∧ k.names 5 n ∧ k.names 6 x ∧ k.names 7 r ∧ k.room r ∧ k.room n ∧ k.plainM 0 ∧ k.noGen ∧
    k.sound 1 r ∧ n.tag = .uint32 ∧ k.plainS 1 ∧ k.plainS 2 ∧ (k.sv 1).toNat < r.size ∧ r.size ≤ (k.sv 2).toNat ∧
    ((k.tile 1).ver.elements r)[31]? = some (.bits 31) ∧ ((k.tile 7).ver.elements r)[31]? = some (.poison e) ∧
    ((k.tile 6).ver.elements x)[31]? = some (.bits 3) ∧ x.tag.narrow = true ∧ ((k.ws 4 bad).rs 4).poison ≠ none ∧
    k.fits (ceilDiv r.size k.place.width) = true := by
  simp only [Block.names, Block.room, Block.plainM, Block.noGen, Block.plainS]
  and_intros <;>
    first | exact sound_of (by decide +kernel) | decide +kernel

theorem witness_MaskResult :
    let c : Crumb := { origin := 5, merged := false }
    let mask (p : Option Crumb) (v : Nat) : MaskReg := { n := 40, fill := false, bits := v, poison := p }
    let t := shaped 16 2 16
    let k := bind 5 5 (shaped 2 2 16) Tile.none (tiles t (((three (2 ^ 32 - 1) (2 ^ 32) 4096 block).wm 1 (mask none 8)).wm 2
      ((mask (some c) 3)) |>.wm 3 (mask none 0)))
    k.fits (ceilDiv (max (k.rm_ 1).n (k.rm_ 2).n) k.place.width) = true ∧
    k.fits (ceilDiv (k.rm_ 1).n k.place.width) = true ∧ (k.rm_ 1).poison = none ∧ (k.rm_ 0).poison = none ∧
    (k.rm_ 1).bit 3 = true ∧ (∀ j, j < 3 → (k.rm_ 1).bit j = false) ∧ (k.rm_ 2).poison = some c ∧
    (k.rm_ 3).poison = none ∧ k.plainS 1 ∧ (k.sv 1).toNat < 2 ^ 32 ∧ k.plainS 3 ∧
    k.fits (ceilDiv (k.sv 3).toNat k.place.width) = true ∧ 2 ^ 32 ≤ (k.sv 2).toNat ∧ ((k.ws 4 bad).rs 4).poison ≠ none ∧
    k.names 1 t ∧ t.tag.isInt = true ∧ k.room t ∧ k.names 5 (shaped 2 2 16) ∧ (shaped 2 2 16).tag.isInt = false := by
  simp only [Block.names, Block.room, Block.plainS]; decide +kernel

/-- MFIRST and MPOPC of a mask without a set bit. -/
theorem witness_MaskResult_empty (e : Nat) :
    ({ n := 40, fill := false, bits := 0, poison := none } : MaskReg).bit e = false := by
  simp [MaskReg.bit]

/-- LaneFunctionResult, MAP: a body of one EADD (R74) behind the call at address 0, on two INT32 tiles. -/
theorem witness_LaneFunctionResult_map :
    let r := shaped 16 2 16
    let s := on (tiles r) (cellsAt (2 ^ 31 + 4) (natLe 4 0x04004000))
    let k := s.dev.blk
    let body : List LaneInsn := [{ op := .eadd, d := 0, a := 0, b := 1, c := 0, imm := 0 }]
    let x (e : Nat) : EReg := { tag := .int32, pat := e, scale := 127, poison := none }
    k.loop = none ∧ k.pc.toNat + 4 + 4 * 1 ≤ 2 ^ 48 ∧ (Work.start s).cached k.space 4 = some leaf ∧
    s.ownLine (lineOf (leaf.pa 4)) ∧ s.dev.calm ∧
    leaf.allows k.ps.pl .fetch = true ∧ laneBody [BitVec.ofNat 32 (s.mem.number (leaf.pa 4) 4)] = some body ∧
    k.names 1 r ∧ k.names 2 r ∧ k.names 3 r ∧ lutTiles body = [] ∧ k.room r ∧ k.plainM 0 ∧ k.noGen ∧ r.tag.narrow = false ∧
    k.sound 3 r ∧
    (∀ e, e < r.size → ((k.tile 1).ver.regs r)[e]? = some (x e) ∧ ((k.tile 2).ver.regs r)[e]? = some (x (2 ^ 32 - 1)) ∧
      ((k.tile 3).ver.regs r)[e]? = some (x 0)) ∧
    (∀ e, e < r.size → (laneCall { idx := e, blk := k, tables := [], gen := none } body
      [x e, x (2 ^ 32 - 1)]).toOption = some (x ((e + 2 ^ 32 - 1) % 2 ^ 32), false)) ∧
    (∀ e, e < r.size → r.tag.packVal .rne false (x ((e + 2 ^ 32 - 1) % 2 ^ 32)).val = .bits ((e + 2 ^ 32 - 1) % 2 ^ 32)) ∧
    Tag.int32 ≠ .none := by
  simp only [Block.names, Block.room, Block.plainM, Block.noGen, State.ownLine, Dev.calm]
  and_intros <;>
    first | exact sound_of (by decide +kernel) | decide +kernel

/-- LaneFunctionResult, REDUCE and SCAN: a body of one EEND (R82), which leaves its left operand. -/
theorem witness_LaneFunctionResult_lines :
    let r := shaped 16 2 16
    let d := shaped 2 2 1
    let u := shaped 2 2 16
    let s := on (fun b => bind 5 5 d Tile.none (bind 6 6 u Tile.none (tiles r b))) (cellsAt (2 ^ 31 + 4) (natLe 4 0x68000000))
    let k := s.dev.blk
    let body : List LaneInsn := [{ op := .eend, d := 0, a := 0, b := 0, c := 0, imm := 0 }]
    let x (e : Nat) : EReg := { tag := .int32, pat := e, scale := 127, poison := none }
    (Work.start s).cached k.space 4 = some leaf ∧ laneBody [BitVec.ofNat 32 (s.mem.number (leaf.pa 4) 4)] = some body ∧
    s.ownLine (lineOf (leaf.pa 4)) ∧ s.dev.calm ∧ leaf.allows k.ps.pl .fetch = true ∧
    lutTiles body = [] ∧ k.names 5 d ∧ k.names 6 u ∧ k.names 1 r ∧ d.rows = r.rows ∧ k.room d ∧ k.room u ∧ k.noGen ∧
    d.tag = .fp32 ∧ u.tag = .fp32 ∧ k.plainM 0 ∧ (∀ e, e < r.size → (k.rm_ 0).bit e = true) ∧ 0 < r.ncols ∧
    r.size ≤ r.tag.grant k.effShare ∧
    (∀ e, e < r.size → ((k.tile 1).ver.regs r)[e]? = some (x e) ∧ (x e).tag = .int32 ∧ (x e).poison = none) ∧
    d.ncols = 1 ∧ ceilLog2 r.ncols * bodyWeight body ≤ 256 ∧ u.ncols = r.ncols ∧ r.ncols * bodyWeight body ≤ 256 := by
  simp only [Block.names, Block.room, Block.plainM, Block.noGen, State.ownLine, Dev.calm]; decide +kernel

/-- That body is a function of two registers of one type. -/
theorem witness_LaneFunctionResult_function (b : Block) (p q : EReg) (e : Nat) :
    laneCall { idx := e, blk := b, tables := [], gen := none } [{ op := .eend, d := 0, a := 0, b := 0, c := 0, imm := 0 }]
      [p, q] = .ok (p, false) := rfl

/-- TileFrame: an instruction that completes and one that traps. -/
theorem witness_TileFrame :
    let s := on (tiles (shaped 12 2 16))
    (∃ t, exec (.tadd 3 1 2 0 0) s = .next t) ∧ (∃ t, exec (.tadd 9 1 2 0 0) s = .next t) ∧ s.dev.direct :=
  ⟨⟨_, rfl⟩, ⟨_, rfl⟩, rfl, rfl⟩

theorem witness_PoisonMarbleJoinFence :
    let r := shaped 2 2 16
    let bs : List Host.Cell := [(640, 1), (641, 2)]
    let e : Pend := { slice := 3, line := 5, kind := .bytes bs, poison := false, bypass := false }
    let s := on fun b => { three 0 1 2 (tiles r b) with pend := [e] }
    let k := s.dev.blk
    let q : Req := { tag := 1, kind := .write, peer := 2, line := 0, by_ := some k.id.key, slice := 3, elem := none, expect := none, answer := none }
    let d : Dev := { devOf id with logbase := [(0, 0x10014)], link := { Dev.reset.link with reqs := [q] } }
    k.names 1 r ∧ k.plainS 1 ∧ k.plainS 2 ∧ k.room r ∧ s.dev.direct ∧ ((s.dev.logBase 0).toNat % 32 < 7) ∧ (d.logBase 0).toNat % 32 = 20 ∧
    (0 : Nat) < 2 ^ 20 - 1 ∧ ((k.ws 4 bad).rs 4).poison ≠ none ∧ (k.sv 2).toNat ≤ 1 ∧ 1 < (k.sv 3).toNat ∧ k.plainS 3 ∧
    k.pend = [e] ∧ k.pend ≠ [] ∧ Os.kind 7 = .acq ∧ Os.kind 30 = .sc ∧ block.pend = [] ∧ s.dev.link.reqs = [] ∧
    (∀ c ∈ bs, lineOf c.1 = e.line) ∧ (bs.map (·.1)).Nodup ∧ s.dev.calm ∧ (e.line + 1) * 128 ≤ 3 * 2 ^ 60 ∧
    metaState (s.tags.read e.line) = 0 ∧ (Work.start s).hostFree e.line = true ∧ q ∈ d.link.reqs ∧ q.by_ = some d.blk.id.key ∧ d.blk.pend = [] := by
  simp only [Block.names, Block.room, Block.plainS, Dev.calm, Dev.direct]; decide +kernel

/-! ### Tile memory and the tile store -/

/-- `State.sees`, computed. -/
def seesB (s : State) (u : TlbUnit) (va : Nat) (a : Access) (l : Leaf) : Bool :=
  decide (va < 2 ^ 48) && (decide ((Work.start s).cached (s.dev.blk.spaceOf u) va = some l) && (l.allows s.dev.blk.ps.pl a &&
    (!l.inOrder && (decide (65536 ∣ l.base) && (decide (65536 ∣ l.size) && decide (s.dev.blk.waitsOn = Option.none))))))

theorem sees_iff {s : State} {u : TlbUnit} {va : Nat} {a : Access} {l : Leaf} :
    s.sees u va a l ↔ seesB s u va a l = true := by
  simp [State.sees, seesB]

/-- `State.ownLine`, computed. -/
def ownB (s : State) (line : Nat) : Bool :=
  decide ((line + 1) * 128 ≤ 3 * 2 ^ 60) && (decide (metaState (s.tags.read line) = 0) && !(s.tags.read line).getLsbD 15)

theorem own_iff {s : State} {line : Nat} : s.ownLine line ↔ ownB s line = true := by
  simp [State.ownLine, ownB]

theorem free_iff {s : State} {line : Nat} :
    s.freeLine line ↔ ownB s line = true ∧ (Work.start s).hostFree line = true := by
  simp [State.freeLine, own_iff]

/-- `State.reaches`, computed. -/
def reachesB (s : State) (u : TlbUnit) (pg : Nat → Leaf) (a : Access) (x : Source) : Bool :=
  x.ranges.all fun g => (List.range g.2).all fun j =>
    seesB s u (pageOf (wrap64 (g.1 + j))) a (pg (pageOf (wrap64 (g.1 + j)))) &&
      ownB s (lineOf ((pg (pageOf (wrap64 (g.1 + j)))).pa (wrap64 (g.1 + j))))

theorem reaches_iff {s : State} {u : TlbUnit} {pg : Nat → Leaf} {a : Access} {x : Source} :
    s.reaches u pg a x ↔ reachesB s u pg a x = true := by
  simp [State.reaches, reachesB, sees_iff, own_iff]

/-- A stored row's elements at an address, row-major. -/
def rowsAt (f : Mfmt) (r : ShapeRec) (base : Nat) (stride : Int) (e : Nat) : Option Source :=
  some (f.source (((base : Int) + stride * (e / r.ncols : Nat)) % 2 ^ 64).toNat r.ncols (e % r.ncols))

/-- A tensor map of one dimension of 3 words of 4 bytes at 0x1000. -/
def mapBytes : List Byte :=
  natLe 8 0x1000 ++ [1, 1, 0] ++ natLe 5 0 ++ natLe 8 0 ++ natLe 4 3 ++ natLe 12 0 ++ natLe 8 4 ++ natLe 24 0 ++
    natLe 8 (8 + 2 ^ 18 + 2 ^ 32) ++ natLe 48 0

/-- TileLoadResult: rows of INT32 and of an MX tag, an index tile of one column, a poisoned mask, a tensor map whose
second row is a fill, scratch up to its last byte. -/
theorem witness_TileLoadResult :
    let r := shaped 16 2 4
    let x := shaped 9 2 32
    let col := shaped 17 2 1
    let c : Crumb := { origin := 5, merged := false }
    let s := on (fun b => (bind 5 5 x Tile.none (bind 6 6 col (version col [0, 1]) (three 256 64 (4096 - 32)
      (tiles r b)))).wm 2 { n := 8, fill := false, bits := 0, poison := some c }) (cellsAt (2 ^ 31 + 256) mapBytes)
    let k := s.dev.blk
    let f := k.format r.tag
    let map : TensorMap := {
      base := 0x1000, ext := [3], stride := [4], fill := 0,
      dims := [{ extent := 8, target := 0, col := true, step := 1 }] }
    k.names 1 r ∧ k.names 3 r ∧ k.names 5 x ∧ k.names 6 col ∧ k.formatOk ∧ k.plainS 1 ∧ k.plainS 2 ∧ k.plainS 3 ∧ s.dev.calm ∧
    k.batch = none ∧ k.parked = none ∧ k.pend = [] ∧ k.sound 1 r ∧ k.sound 6 col ∧ k.fits (r.storage k.place.width + k.loadRows r) = true ∧
    k.fits (x.storage k.place.width + k.loadRows x) = true ∧ (k.sv 2).toInt % f.enc.unit = 0 ∧ col.tag.isInt = true ∧
    col.rows = r.rows ∧ col.ncols = 1 ∧ k.plainM (k.loadMask 0) ∧
    (∀ e, e < r.size → ∀ y ∈ rowsAt f r 256 (f.enc.rowBytes r.ncols) e, y.va % f.enc.unit = 0 ∧
      s.reaches k.laneUnit (fun _ => leaf) .read y ∧ s.reaches .gather (fun _ => leaf) .read y) ∧
    (∀ e, e < r.size → ∀ y ∈ rowsAt f r 256 64 e, y.va % f.enc.unit = 0 ∧ s.reaches k.laneUnit (fun _ => leaf) .read y) ∧
    (∀ e, e < 2 → ∀ y ∈ rowsAt (k.format x.tag) x 256 17 (32 * e), s.reaches k.laneUnit (fun _ => leaf) .read y) ∧
    (k.rm_ 2).poison = some c ∧ (k.sv 1).toNat % 128 = 0 ∧ s.sees k.scalarUnit 256 .read leaf ∧ s.ownLine (lineOf (leaf.pa 256)) ∧
    tensorMap f.enc.width ((List.range 128).map fun j => s.mem.read (leaf.pa 256 + j)) = some map ∧
    k.sv 0 >>> (16 * map.ext.length) = 0 ∧ map.base % f.enc.unit = 0 ∧ (∀ y ∈ map.stride, y % f.enc.unit = 0) ∧
    map.addr (k.sv 0) 0 2 = some 0x1008 ∧ map.addr (k.sv 0) 0 3 = none ∧ map.addr (k.sv 0) 1 0 = none ∧
    (∀ e, e < r.size → ∀ va ∈ map.addr (k.sv 0) (e / 4) (e % 4), va % f.enc.unit = 0 ∧
      s.reaches k.laneUnit (fun _ => leaf) .read (f.source va 1 0)) ∧
    (∀ e, e < r.size → ∀ y ∈ rowsAt f r (4096 - 32) (f.enc.rowBytes r.ncols) e, y.va % f.enc.unit = 0 ∧
      ∀ g ∈ y.ranges, g.1 + g.2 ≤ k.place.scratch) := by
  and_intros <;>
    first
    | exact sound_of (by decide +kernel)
    | decide +kernel
    | ((try unfold Block.plainS); (try unfold Block.plainM); (try simp only [reaches_iff])
       decide +kernel)

/-- StreamLoadResult: a MASKED chunk of three elements, two of them stored, and a mask image. -/
theorem witness_StreamLoadResult :
    let r := shaped 16 2 4
    let head : List Byte := natLe 4 3 ++ natLe 3 9 ++ [1]
    let mem := cellsAt (2 ^ 31 + 256) (head ++ [5] ++ natLe 4 7 ++ natLe 4 8 ++ natLe 7 0) ++
      cellsAt (2 ^ 31 + 512) (natLe 8 (12 + 2 ^ 32) ++ [0x55, 0x05])
    let s := on (fun b => three 256 24 512 (tiles r b)) mem
    let k := s.dev.blk
    let f := k.format r.tag
    let number (j c : Nat) : Nat := ((List.range c).map fun y => (s.mem.read (leaf.pa (j + y))).toNat * 256 ^ y).sum
    let there (va c : Nat) : Prop := va + c ≤ 2 ^ 48 ∧ ∀ j, j < c → s.sees k.laneUnit (va + j) .read leaf ∧ s.ownLine (lineOf (leaf.pa (va + j)))
    k.plainS 1 ∧ k.plainS 2 ∧ k.plainS 3 ∧ s.dev.calm ∧ k.waitsOn = none ∧ k.pend = [] ∧ k.names 1 r ∧ k.formatOk ∧
    f.enc.narrow = false ∧ 8 ≤ f.enc.width ∧ r.tag.narrow = false ∧ 256 % f.enc.unit = 0 ∧ k.room r ∧ 3 ≤ r.size ∧
    number 256 8 = 3 + 2 ^ 32 * 9 + 2 ^ 56 * 1 ∧ 9 = 1 + 2 * f.enc.unit ∧ 24 ≤ (k.sv 2).toNat ∧ (k.sv 2).toNat < 24 + 8 ∧
    there 256 17 ∧ number 512 8 = 12 + 2 ^ 32 ∧ 512 % 8 = 0 ∧ there 512 10 ∧ k.fits (ceilDiv 12 k.place.width) = true := by
  and_intros <;>
    first
    | decide +kernel
    | ((try unfold Block.plainS); (try unfold Block.room); (try simp only [sees_iff]); (try simp only [own_iff])
       decide +kernel)

/-- TileStoreResult: plain, half-byte and MX rows, an index tile of the tile's own shape with different addresses, scratch up
to its last byte, an older write in the queue. -/
theorem witness_TileStoreResult :
    let r := shaped 16 2 4
    let x := shaped 9 2 32
    let i := shaped 17 2 4
    let z := shaped 10 2 4
    let p : Pend := { slice := 3, line := 5, kind := .bytes [(640, 1)], poison := false, bypass := false }
    let s := on fun b =>
      { bind 5 5 x Tile.none (bind 6 6 i (version i (List.range 8)) (bind 7 7 z (version z (List.range 8))
          (three 256 64 (4096 - 32) (tiles r b)))) with pend := [p] }
    let k := s.dev.blk
    let f := k.format r.tag
    let at_ (e : Nat) : Nat := ((256 + k.integer 6 i e * f.enc.unit) % 2 ^ 64).toNat
    s.dev.roomFor [{ p with slice := 4 }] = true ∧
    k.names 1 r ∧ k.names 5 x ∧ k.names 6 i ∧ k.formatOk ∧ k.plainS 1 ∧ k.plainS 2 ∧ k.plainS 3 ∧ k.batch = none ∧ k.parked = none ∧
    k.sound 1 r ∧ k.sound 6 i ∧ k.sound 5 x ∧ k.plainM (k.loadMask 0) ∧ s.dev.link.reqs = [] ∧
    k.fits (k.loadRows r) = true ∧ (k.sv 2).toInt % f.enc.unit = 0 ∧ i.tag.isInt = true ∧ i.rows = r.rows ∧
    i.ncols = r.ncols ∧ f.enc.narrow = false ∧ 8 ≤ f.enc.width ∧ f.enc = r.tag ∧ r.tag ∈ [Tag.fp64, .fp32, .int32, .uint32] ∧
    k.names 7 z ∧ k.sound 7 z ∧ (k.format z.tag).enc.narrow = false ∧ (k.format z.tag).enc.width = 4 ∧ k.noGen ∧
    (k.format x.tag).enc.narrow = true ∧
    (∀ e, e < z.size → ∀ y ∈ rowsAt (k.format z.tag) z 256 2 e, s.reaches k.laneUnit (fun _ => leaf) .write y) ∧
    (∀ e, e < r.size → ∀ y ∈ rowsAt f r 256 64 e, y.va % f.enc.unit = 0 ∧ s.reaches k.laneUnit (fun _ => leaf) .write y ∧
      s.reaches .gather (fun _ => leaf) .write y) ∧
    (∀ e, e < 2 → ∀ y ∈ rowsAt (k.format x.tag) x 256 17 (32 * e), s.reaches k.laneUnit (fun _ => leaf) .write y) ∧
    (∀ e, e < r.size → at_ e % f.enc.unit = 0 ∧ s.sees .gather (pageOf (at_ e)) .atomic leaf) ∧
    (∀ e, e < r.size → ∀ y, y < e → at_ e ≠ at_ y) ∧
    (∀ e, e < r.size → ∀ y ∈ rowsAt f r (4096 - 32) (f.enc.rowBytes r.ncols) e, y.va % f.enc.unit = 0 ∧
      ∀ g ∈ y.ranges, g.1 + g.2 ≤ k.place.scratch) := by
  and_intros <;>
    first
    | exact sound_of (by decide +kernel)
    | decide +kernel
    | ((try unfold Block.plainS); (try unfold Block.plainM); (try unfold Block.noGen); (try simp only [reaches_iff]); (try simp only [sees_iff])
       decide +kernel)

/-- TileAtomicResult: an index of the fill value among the indexes. -/
theorem witness_TileAtomicResult :
    let r := shaped 2 2 4
    let i := shaped 17 2 4
    let s := on fun b => bind 6 6 i (version i (List.range 7 ++ [2 ^ 32 - 1])) (three 256 0 0 (tiles r b))
    let k := s.dev.blk
    let f := k.format r.tag
    let at_ (e : Nat) : Nat := ((256 + k.integer 6 i e * 4) % 2 ^ 64).toNat
    k.names 1 r ∧ k.names 6 i ∧ k.formatOk ∧ f.enc = r.tag ∧ r.tag ∈ [Tag.fp64, .fp32, .int32, .uint32] ∧ (6#3).toNat ≤ 6 ∧
    (6#3).toNat ∉ [3, 4, 5] ∧ i.tag.isInt = true ∧ i.rows = r.rows ∧ i.ncols = r.ncols ∧ k.plainS 1 ∧
    k.plainM (k.loadMask 0) ∧ k.noGen ∧ k.sound 1 r ∧ k.sound 6 i ∧ s.dev.calm ∧ k.batch = none ∧ k.parked = none ∧ k.pend = [] ∧
    k.fits (r.storage k.place.width + k.loadRows r) = true ∧ k.pattern 6 i 7 = 2 ^ 32 - 1 ∧
    (∀ e, e < 7 → k.pattern 6 i e ≠ 2 ^ 32 - 1 ∧ at_ e % 4 = 0 ∧ s.sees .gather (pageOf (at_ e)) .atomic leaf ∧
      s.freeLine (lineOf (leaf.pa (at_ e)))) ∧
    (∀ e, e < 7 → ∀ y, y < e → leaf.pa (at_ e) ≠ leaf.pa (at_ y)) := by
  and_intros <;>
    first
    | exact sound_of (by decide +kernel)
    | decide +kernel
    | ((try unfold Block.plainS); (try unfold Block.plainM); (try unfold Block.noGen); (try simp only [sees_iff]); (try simp only [free_iff])
       decide +kernel)

/-- A region word: first row and column, rows, columns (R72). -/
def regionOf_ (row col rows cols : Nat) : Word := BitVec.ofNat 64 (row + 2 ^ 10 * col + 2 ^ 19 * (rows - 1) + 2 ^ 29 * (cols - 1))

/-- MatrixProductResult: INT8 and BF16 operands, the region at the last rows of the grant, a structured operand, rows that
are streamed from memory with either side held. -/
theorem witness_MatrixProductResult :
    let w := regionOf_ 60 508 4 4
    let r := shaped 12 4 16
    let h := shaped 3 4 16
    let wide := shaped 12 4 32
    let s := on fun b => bind 7 7 wide Tile.none (bind 5 5 h Tile.none (bind 6 6 h Tile.none
      ((three w 256 64 (tiles r b)).wm 3 { n := 128, fill := false, bits := 0, poison := none })))
    let k := s.dev.blk
    let g := regionWord (k.sv 1)
    let p : PairNo := 1
    let f : Mfmt := { enc := .int8, trail := false, rm := .rne, sat := false }
    regionOk (k.sv 1) k.place.tsRows = true ∧ k.plainS 1 ∧ k.noGen ∧ s.dev.unc.upsets = [] ∧ g.rows = 4 ∧ g.cols = 4 ∧
    (∀ i, i < g.rows → ∀ j, j < g.cols → (k.at g i j).p = false) ∧ k.names 1 r ∧ k.names 2 r ∧ k.sound 1 r ∧ k.sound 2 r ∧
    kGroup r.tag r.tag = some (16, true) ∧ kGroup h.tag h.tag = some (8, false) ∧ k.names 5 h ∧ k.names 6 h ∧ k.sound 5 h ∧
    matrixTag (6#4).toNat = r.tag ∧ r.rows = g.rows ∧ r.rows = g.cols ∧ k.plainM 0 ∧ k.names 7 wide ∧ k.sound 7 wide ∧
    r.ncols = 16 * ceilDiv wide.ncols 32 ∧ (k.rm_ 3).n = g.rows * wide.ncols ∧ k.plainM 3 ∧
    (∀ i, i < g.rows → ∀ q, q < wide.ncols → (k.rm_ 3).bit (i * wide.ncols + q) = true →
      ((List.range (q % 32)).filter fun z => (k.rm_ 3).bit (i * wide.ncols + (q / 32 * 32 + z))).length < 16) ∧
    k.plainS (PairNo.lo p) ∧ k.plainS (PairNo.hi p) ∧ (k.sv (PairNo.lo p)).toNat = 256 ∧ (k.sv (PairNo.hi p)).toNat = 64 ∧
    s.dev.calm ∧ k.batch = none ∧ k.waitsOn = none ∧ k.stop = none ∧ k.pend = [] ∧ (k.rpAddr ≠ k.pc ∨ k.rp = 0) ∧ k.csr.mfmt.toNat / 32 % 4 ≤ 1 ∧
    (∀ i, i < 4 → ∀ j, j < 16 → s.reaches .matrix (fun _ => leaf) .read (f.source (256 + 64 * i) 16 j)) := by
  and_intros <;>
    first
    | exact sound_of (by decide +kernel)
    | decide +kernel
    | ((try unfold Block.plainS); (try unfold Block.plainM); (try unfold Block.noGen); (try simp only [reaches_iff])
       decide +kernel)

theorem witness_AccumulatorMoveResult :
    let w := regionOf_ 60 508 2 4
    let r := shaped 16 2 4
    let s := on fun b => three w 256 64 (tiles r b)
    let k := s.dev.blk
    let g := regionWord (k.sv 1)
    regionOk (k.sv 1) k.place.tsRows = true ∧ k.plainS 1 ∧ s.dev.unc.upsets = [] ∧ k.names 1 r ∧ r.rows = g.rows ∧
    r.ncols = g.cols ∧ k.plainM 0 ∧ k.sound 1 r ∧ k.room r ∧ k.noGen ∧
    (∀ i, i < g.rows → ∀ j, j < g.cols → (k.at g i j).p = false) ∧ r.tag.narrow = false ∧ k.plainS 2 ∧ k.plainS 3 ∧
    (k.sv 2).toNat % 4 = 0 ∧ (k.sv 3).toNat % 4 = 0 ∧ k.waitsOn = none ∧ s.dev.entriesOf k.place.firstSlice = 0 ∧ s.dev.calm ∧ k.pend = [] ∧
    (∀ i, i < g.rows → ∀ j, j < g.cols → s.sees k.laneUnit (pageOf (256 + 64 * i + 4 * j)) .read leaf ∧
      s.sees k.laneUnit (pageOf (256 + 64 * i + 4 * j)) .write leaf ∧ s.ownLine (lineOf (leaf.pa (256 + 64 * i + 4 * j)))) := by
  and_intros <;>
    first
    | exact sound_of (by decide +kernel)
    | decide +kernel
    | ((try unfold Block.plainS); (try unfold Block.plainM); (try unfold Block.noGen); (try unfold Block.room);
       (try simp only [sees_iff]); (try simp only [own_iff])
       decide +kernel)

/-- `State.holds`, computed. -/
def holdsB (s : State) (sp : Space) (lv : Level) (va : Nat) (a : Access) (l : Leaf) : Bool :=
  decide (va < 2 ^ 48) && (decide ((Work.start s).cached sp va = some l) && (l.allows lv a &&
    (decide (65536 ∣ l.base) && decide (65536 ∣ l.size))))

theorem holds_iff {s : State} {sp : Space} {lv : Level} {va : Nat} {a : Access} {l : Leaf} :
    s.holds sp lv va a l ↔ holdsB s sp lv va a l = true := by
  simp [State.holds, holdsB]

/-- The pair s2:s3. -/
def pair1 : PairNo := 1

/-- EngineCommandResult: with room on both engines; a gather of 4-byte elements, a descriptor that is none and one on a
poisoned line; a page of 1 GiB that moves, and one that may not; lengths, a completion word and a poisoned operand that
trap. -/
theorem witness_EngineCommandResult :
    let f (x y z : Word) (b : Block) : Block := (three x y z b).ws 4 (SReg.plain 256)
    let mem := cellsAt (2 ^ 31 + 256) (natLe 8 0x1000 ++ natLe 8 0x2000 ++ [26])
    let s := on (f 0 5 1024) mem
    let k := s.dev.blk
    let g : OpKind := .gather 0 0x1000 0x2000 4 true true 5
    let up (va : Word) := on fun b => { three va (2 ^ 30) 1024 b with ps := { b.ps with pl := .super } }
    let u := up 0
    let j := u.dev.blk
    let two := on (f 0 (2 ^ 40) 1024) (cellsAt (2 ^ 31 + 272) [255])
    let spoilt : State := { s with tags := [(2 ^ 24 + 2, 0x8000)] }
    let list (s : State) : List Byte := (List.range 32).map fun j => s.mem.read (leaf.pa (k.sv 4).toNat + j)
    s.dev.engineLoad k.place.core 0 < 32 ∧ k.plainS 1 ∧ k.plainS 4 ∧ k.plainS (PairNo.lo pair1) ∧ k.plainS (PairNo.hi pair1) ∧
    (k.sv (PairNo.hi pair1)).toNat % 8 = 0 ∧ s.sees k.scalarUnit (k.sv (PairNo.hi pair1)).toNat .atomic leaf ∧ k.pend = [] ∧
    s.dev.still ∧ (k.sv (PairNo.lo pair1)).toNat = 5 ∧ (k.sv 4).toNat % 128 + 32 ≤ 128 ∧
    s.sees k.scalarUnit (k.sv 4).toNat .read leaf ∧ s.ownLine (lineOf (leaf.pa (k.sv 4).toNat)) ∧
    gatherKind (k.sv 1) (list s) 5 = some g ∧ gatherKind (k.sv 1) (list two) 5 = none ∧
    lineOf (leaf.pa (k.sv 4).toNat) = 2 ^ 24 + 2 ∧ (spoilt.tags.read (2 ^ 24 + 2)).getLsbD 15 = true ∧
    metaState (spoilt.tags.read (2 ^ 24 + 2)) = 0 ∧ spoilt.dev.still ∧
    spoilt.sees k.scalarUnit (k.sv 4).toNat .read leaf ∧
    k.ps.pl = .user ∧ j.ps.pl ≠ .user ∧ u.dev.link.reqs = [] ∧ j.plainS 0 ∧ (j.sv 1).toNat < 2 ^ 48 ∧
    u.sees j.scalarUnit (j.sv (PairNo.hi pair1)).toNat .atomic leaf ∧
    (Work.start u).cached j.space (j.sv 1).toNat = some leaf ∧
    copyxBad leaf (j.sv 1).toNat (j.sv 0) (j.sv (PairNo.lo pair1)).toNat = false ∧
    (u.mem.number leaf.entry 2).testBit 14 = false ∧
    (let x := (up 128).dev.blk
     (Work.start (up 128)).cached x.space (x.sv 1).toNat = some leaf ∧
       copyxBad leaf (x.sv 1).toNat (x.sv 0) (x.sv (PairNo.lo pair1)).toNat = true) ∧
    ¬ ((on (f 0 5 1024)).dev.blk.ws 1 bad).plainS 1 ∧
    ((on (f 0 5 1028)).dev.blk.sv (PairNo.hi pair1)).toNat % 8 ≠ 0 ∧ (two.dev.blk.sv (PairNo.lo pair1)).toNat = 2 ^ 40 ∧
    two.sees k.scalarUnit (two.dev.blk.sv (PairNo.hi pair1)).toNat .atomic leaf := by
  and_intros <;>
    first
    | decide +kernel
    | exact fun _ => rfl
    | ((try unfold Block.plainS)
       (try simp only [sees_iff])
       decide +kernel)

/-- An engine operation of the block's. -/
def opOf (kind : OpKind) (done : Nat) : Op :=
  { num := 7, who := block.id, core := 0, engine := 1, kind := kind, done := done, cw := 2 ^ 31 + 1024, cwVa := 1024,
    scope := 1, level := .user, pc := 0, batch := none, onePage := false, va := 0, bad := none, crumbs := [], node := none }

/-- The machine with operations and graphs under way. -/
def onEng (ops : List Op) (gs : List Graph) (mem : Memory) : State :=
  { on id mem with dev := { devOf id with eng := { (devOf id).eng with ops := ops, graphs := gs, nextOp := 9 } } }

/-- EngineWorkResult: a copy of 3 bytes across two lines, a clear of the bytes before its completion word, a record into
a queue with a free slot, a move of two copied lines in both phases, an increment that is owed. -/
theorem witness_EngineWorkResult :
    let o := opOf (.copy 126 300 3 []) 0
    let z := opOf (.zero 1021 3) 0
    let a : Op := { o with bad := some 4 }
    let m (p : MovePhase) := opOf (.move 0 (2 ^ 20) (2 ^ 31) 0 (2 ^ 32) 3 (128 * 2) false p []) 2
    let s := onEng [o] [] []
    let t := onEng [a] [] (queueAt 16 3 0)
    let sp : Space := { core := o.core, unit := o.unit, asid := o.who.asid, root := o.who.root, level := o.level }
    let owed : State := { on id with dev := { devOf id with eng := { (devOf id).eng with owed := [(1, 2 ^ 31)] } } }
    s.dev.still ∧ o.batch = none ∧ o.node = none ∧ o.bad = none ∧ o.done = 0 ∧ s.openLine (lineOf o.cw) ∧
    s.mem.number o.cw 8 < 2 ^ 63 - 1 ∧ (126 : Word).toNat + 3 ≤ 2 ^ 48 ∧ 126 + 3 ≤ 300 ∧
    (∀ j, j < 3 → s.holds sp o.level (126 + j) .write leaf ∧ s.holds sp o.level (300 + j) .read leaf ∧
      s.openLine (lineOf (leaf.pa (126 + j))) ∧ s.ownLine (lineOf (leaf.pa (300 + j))) ∧ leaf.pa (126 + j) + 8 ≤ o.cw) ∧
    (∀ i, i < 3 → ∀ j, j < 3 → leaf.pa (126 + i) ≠ leaf.pa (300 + j) ∧ (i ≠ j → leaf.pa (126 + i) ≠ leaf.pa (126 + j))) ∧
    (∀ j, j < 3 → (onEng [z] [] []).holds sp z.level (1021 + j) .write leaf ∧
      (onEng [z] [] []).openLine (lineOf (leaf.pa (1021 + j))) ∧ leaf.pa (1021 + j) + 1 ≤ z.cw) ∧
    a.bad = some 4 ∧ t.dev.fq.held = [] ∧ t.dev.link.reqs = [] ∧ t.dev.eng.forwards = [] ∧
    (∃ q, (Work.start t).queueDesc (16 + a.who.fn) = some q ∧
      (Work.start t).ownLe q.control 8 - t.mem.number (q.control + 128) 8 < q.slots ∧
      (Work.start t).ownLe q.control 8 < 2 ^ 64 - 1) ∧
    2 ≤ (m .copying).done ∧ (2 ^ 31 : Nat) ≠ 2 ^ 32 ∧
    (let x := onEng [m .switching] [] []
     { x.dev with eng := { x.dev.eng with ops := [] } }.calm ∧ ∀ i, i < 2 → metaState (x.tags.read (2 ^ 31 / 128 + i)) = 0) ∧
    owed.dev.eng.owed = [(1, 2 ^ 31)] ∧ owed.dev.still ∧ owed.dev.lu.controls = [] ∧ owed.dev.fw.changed = none ∧
    owed.dev.fw.generation % 2 = 0 ∧ owed.openLine (lineOf (2 ^ 31)) ∧ 2 ^ 31 % 8 = 0 := by
  and_intros <;>
    first
    | decide +kernel
    | exact fun _ => rfl
    | ((try simp only [State.openLine]); (try simp only [own_iff])
       (try simp only [holds_iff])
       decide +kernel)

/-- A way of line 2 ^ 24's set that this line takes. -/
def way (pin : Bool) : L2Line :=
  { line := 2 ^ 24, away := false, valid := true, pin := pin, dirty := false, held := false, low := false, packed := false }

/-- CacheControlResult: one line, two lines, no byte and too many bytes; a set with no way left; a page, an address space and
everything at a level that may. -/
theorem witness_CacheControlResult :
    let s := on (three 100 28 (2 ^ 30 + 1))
    let u := on fun b => { three 256 65535 0 b with ps := { b.ps with pl := .super } }
    let k := s.dev.blk
    let full : State := { s with dev := { s.dev with unc := { s.dev.unc with
      l2 := (List.range 16).map fun i => { way true with line := 2 ^ 24 + (i + 1) * (2 ^ 18 + 16) } } } }
    let w := Work.start s
    k.plainS 1 ∧ k.plainS 2 ∧ (k.sv 2).toNat = 28 ∧ ((k.sv 1).toNat % 128 + 28 + 127) / 128 = 1 ∧ k.pend = [] ∧
    s.dev.eng.forwards = [] ∧ (k.sv 1).toNat / 128 * 128 + 128 ≤ 2 ^ 48 ∧ (Work.start s).cached k.space 0 = some leaf ∧
    w.takenWays (lineOf (leaf.pa 0)) < 16 ∧ leaf.compressed = false ∧ (∀ x ∈ s.dev.unc.l2, x.packed = false) ∧
    (∀ i, i < 2 → w.takenWays (2 ^ 24 + i) + ((List.range 2).filter fun j => w.sameSet (2 ^ 24 + i) (2 ^ 24 + j)).length ≤ 16 ∧
      (w.waysOf (2 ^ 24 + i) false).length + 2 ≤ 16) ∧
    16 ≤ (Work.start full).takenWays (2 ^ 24) ∧ (∀ x ∈ full.dev.unc.l2, x.line ≠ 2 ^ 24) ∧ lineOf (leaf.pa 0) = 2 ^ 24 ∧
    { leaf with type := .device }.type = .device ∧
    ((k.sv 1).toNat % 128 + 29 + 127) / 128 = 2 ∧ (Work.start s).cached k.space 128 = some leaf ∧ leaf.type ≠ .device ∧
    (k.sv 0).toNat = 0 ∧ k.plainS 0 ∧ k.plainS 3 ∧ 2 ^ 30 < (k.sv 3).toNat ∧ (k.rs 4).poison = none ∧
    ((k.ws 4 bad).rs 4).poison ≠ none ∧ k.ps.pl = .user ∧ u.dev.blk.ps.pl ≠ .user ∧ u.dev.blk.pend = [] ∧
    u.dev.link.reqs = [] ∧ u.dev.eng.ops = [] ∧ u.dev.eng.graphs = [] ∧ u.dev.eng.owed = [] ∧ u.dev.eng.fills = [] ∧
    (∀ x ∈ u.dev.blocks, x.pend = [] ∧ ∀ q ∈ x.queues.toList, q.st ≠ .filling ∧ q.st ≠ .faulted) ∧
    u.dev.blk.plainS 1 ∧ u.dev.blk.plainS 2 ∧ (u.dev.blk.sv 2).toNat < 2 ^ 16 := by
  and_intros <;>
    first
    | decide +kernel
    | exact fun _ => rfl
    | ((try unfold Block.plainS)
       decide +kernel)

/-- A valid context 0 (R348). -/
def contextMem : Memory := cellsAt 12 [1]

/-- A launch record of `x` blocks in gangs of `g`, with its header at 320, completion word at 1024 and status at 2048. -/
def launchBytes (g x : Nat) : List Byte :=
  [1, 3, BitVec.ofNat 8 g, 0] ++ natLe 4 7 ++ natLe 8 320 ++ natLe 2 x ++ natLe 2 1 ++ natLe 4 1 ++ natLe 8 1024 ++ natLe 8 2048

/-- LaunchAndCommunication: a record that is accepted, and one whose blocks its gang size does not divide. -/
theorem witness_LaunchAndCommunication_launch :
    let hdr := natLe 8 0x1000 ++ natLe 8 0 ++ natLe 2 8 ++ natLe 2 4 ++ natLe 4 64 ++ [32]
    let mem (x : Nat) := contextMem ++ cellsAt (2 ^ 31 + 256) (launchBytes 2 x ++ natLe 24 0 ++ hdr)
    let s := on (three 256 0 0) (mem 4)
    let t := on (three 256 0 0) (mem 5)
    let k := s.dev.blk
    let bytes (s : State) (x : Nat) : List Byte := (List.range 64).map fun j => s.mem.read (leaf.pa x + j)
    let r := launchRec (bytes s 256)
    k.plainS 1 ∧ (k.sv 1).toNat = 256 ∧ s.dev.still ∧ k.pend = [] ∧ s.dev.lu.launches.length < Config.launchEntries ∧
    s.sees k.scalarUnit 256 .read leaf ∧ s.ownLine (lineOf (leaf.pa 256)) ∧ field (bytes s 256) 0 1 % 16 = 1 ∧ r.header = 320 ∧ r.header % 64 = 0 ∧ 256 % 64 = 0 ∧
    s.sees k.scalarUnit r.header .read leaf ∧ s.ownLine (lineOf (leaf.pa r.header)) ∧ s.sees k.scalarUnit r.done .atomic leaf ∧ r.done ≠ 0 ∧
    s.sees k.scalarUnit r.status .write leaf ∧ s.freeLine (lineOf (leaf.pa r.status)) ∧ r.status ≠ 0 ∧ leaf.pa r.status ≠ 0 ∧
    r.status % 8 = 0 ∧ s.dev.eng.ops = [] ∧ (Work.start s).rejectCode (bytes s 256) (some (bytes s 320)) k.id.ctx = none ∧
    (Work.start t).rejectCode (bytes t 256) (some (bytes t 320)) k.id.ctx = some 3 ∧ launchRec (bytes t 256) = { r with x := 5 } ∧
    (∃ l ∈ s.dev.lu.launches, l.lid % 65536 = 1) ∧ s.dev.lu.nextLid = 2 := by
  and_intros <;>
    first
    | decide +kernel
    | exact fun _ => rfl
    | ((try unfold Block.plainS)
       (try simp only [sees_iff]); (try simp only [free_iff])
       decide +kernel)

/-- A second member of the gang. -/
def member : Block := { block with id := { block.id with key := { lid := 1, lin := 1 } } }

/-- The machine with two members of a gang of two. -/
def gang2 (f g : Block → Block) (mem : Memory := []) : State :=
  { on id mem with dev := { devOf (fun b => f { b with id := { b.id with gangSize := 2 } }) with others := [g member] } }

/-- LaunchAndCommunication: the other member and one beyond the gang; a transfer that arrives; a version and none; limits 0,
1 and 2 ^ 32; a word that has its value, one that has bit 63, and one that has neither. -/
theorem witness_LaunchAndCommunication_gang :
    let r := shaped 16 2 4
    let v := version r (List.range 8)
    let f (b : Block) : Block := bind 1 1 r v ((three 1 2 256 b).ws 4 (SReg.plain (2 ^ 32)))
    let x : Transfer := { dest := { lid := 1, lin := 1 }, tile := 1, ver := v }
    let s := gang2 f (bind 1 1 r Tile.none) (cellsAt (2 ^ 31 + 256) [1])
    let t := gang2 (fun b => { f b with xfer := some x }) (bind 1 1 r Tile.none)
    let k := s.dev.blk
    let u := gang2 (fun b => { f b with t := (f b).t.setIfInBounds 1 { TileReg.reset with bound := some 1, inbox := some v } }) id
    k.names 1 r ∧ k.plainS 1 ∧ k.plainS 2 ∧ k.plainS 3 ∧ (k.sv 1).toNat < k.id.gangSize ∧ k.id.gangSize ≤ (k.sv 2).toNat ∧
    k.xfer = none ∧ s.dev.canReceive { lid := k.id.key.lid, lin := k.id.gang * k.id.gangSize + 1 } 1 ((k.tile 1).ver.sent r) = true ∧
    t.dev.blk.xfer = some x ∧
    (∃ y, t.dev.find x.dest = some y ∧ y.resident = true ∧ y.fits (x.ver.storage y.place.width) = true) ∧
    u.dev.blk.names 1 r ∧ (u.dev.blk.tile 1).inbox = some v ∧ v.tag = r.tag ∧ v.rows = r.rows ∧ v.cols = r.ncols ∧
    v.elems.length = r.size ∧ (k.tile 1).inbox = none ∧ k.recvtUntil = none ∧ (k.sv 0).toNat = 0 ∧ k.plainS 0 ∧
    k.plainS 4 ∧ (k.sv 4).toNat = 2 ^ 32 ∧ (k.sv 1).toNat = 1 ∧ (k.sv 3).toNat = 256 ∧ s.dev.still ∧ k.pend = [] ∧
    s.sees k.scalarUnit 256 .read leaf ∧ s.ownLine (lineOf (leaf.pa 256)) ∧ s.mem.number (leaf.pa 256) 8 = 1 ∧ 1 < (k.sv 2).toNat ∧
    (gang2 f id (cellsAt (2 ^ 31 + 256) (natLe 8 (2 ^ 63)))).mem.number (leaf.pa 256) 8 = 2 ^ 63 := by
  and_intros <;>
    first
    | decide +kernel
    | exact fun _ => rfl
    | ((try unfold Block.plainS)
       decide +kernel)

/-- A stream queue in state `st` with `filled` entries of 5 delivered, `popped` taken, and the slots `xs`. -/
def streamQ (st : QState) (filled popped : Nat) (xs : List Tile) : StreamQueue :=
  { StreamQueue.reset with st := st, count := 5, shape := descriptor 16 2 4, stride := 32, depth := 2, filled := filled, popped := popped,
                           src := 512, cw := 2 ^ 31 + 1024, cwVa := 1024, slots := xs }

/-- StreamQueueResult: a fill of 5 entries by a queue that is idle and one that is done; the last entry delivered, the
first to come; a queue with an entry, one without, one that does not exist. -/
theorem witness_StreamQueueResult :
    let bs := natLe 8 (descriptor 16 2 4).toNat ++ natLe 8 32 ++ [3, 8] ++ natLe 14 0
    let f (q : StreamQueue) (b : Block) : Block :=
      ((bind 1 1 (shaped 16 2 4) Tile.none (three 256 5 1024 b)).ws 4 (SReg.plain 512)).setQueue 3 q
    let s := on (f StreamQueue.reset) (cellsAt (2 ^ 31 + 256) bs)
    let k := s.dev.blk
    let v := version (shaped 16 2 4) (List.range 8)
    let full := on (f (streamQ .filling 5 4 [v]))
    let part := on (f (streamQ .filling 0 0 []))
    let q := part.dev.blk.queue 3
    let qr := recordOf q.shape 0
    let fm : Mfmt := { enc := qr.tag, trail := false, rm := .rne, sat := false }
    let o := full.dev.blk.ws 5 (SReg.plain 3)
    k.plainS 1 ∧ k.plainS 4 ∧ k.plainS (PairNo.lo pair1) ∧ k.plainS (PairNo.hi pair1) ∧
    s.sees k.scalarUnit (k.sv (PairNo.hi pair1)).toNat .atomic leaf ∧ s.sees k.scalarUnit 256 .read leaf ∧
    s.ownLine (lineOf (leaf.pa 256)) ∧ s.dev.still ∧ k.pend = [] ∧ ((List.range 32).map fun j => s.mem.read (leaf.pa 256 + j)) = bs ∧ streamDescOk bs = true ∧
    s.dev.engineLoad k.place.core 0 < 32 ∧ (k.queue 3).st = .idle ∧ (streamQ .done 0 0 []).st = .done ∧ (k.sv (PairNo.lo pair1)).toNat < 2 ^ 32 ∧
    512 % (shaped 16 2 4).tag.unit = 0 ∧ 32 % (shaped 16 2 4).tag.unit = 0 ∧
    (k.setQueue 3 StreamQueue.reset).fits (8 * (recordOf (descriptor 16 2 4) 0).storage k.place.width) = true ∧
    (full.dev.blk.queue 3).st = .filling ∧ full.dev.still ∧
    (full.dev.blk.queue 3).count ≤ (full.dev.blk.queue 3).filled ∧ full.freeLine (lineOf (full.dev.blk.queue 3).cw) ∧
    q.filled < q.count ∧ q.filled < q.popped + q.depth ∧ q.crumbs = [] ∧
    (∀ e, e < qr.size → part.reaches (.copy q.engine) (fun _ => leaf) .read (fm.source (wrap64 (q.src.toNat + q.filled * q.stride.toNat +
      e / qr.ncols * qr.tag.rowBytes qr.ncols)) qr.ncols (e % qr.ncols))) ∧
    o.names 1 (shaped 16 2 4) ∧ o.plainS 5 ∧ (o.sv 5).toNat = 3 ∧ (o.queue 3).popped ≠ (o.queue 3).count ∧ o.room (shaped 16 2 4) ∧
    (o.queue 3).slots = [v] ∧ v.elems.length = (shaped 16 2 4).size ∧ q.slots = [] ∧ q.st ≠ .abandoned ∧ 4 ≤ (k.sv 2).toNat := by
  and_intros <;>
    first
    | decide +kernel
    | exact fun _ => rfl
    | ((try unfold Block.plainS); (try unfold Block.room)
       (try simp only [reaches_iff]); (try simp only [free_iff])
       decide +kernel)

/-- GraphInstructionResult: a fresh node over an old one, an edge to a node with three predecessors, a busy node, a node
with 8 successors, a graph of one node. -/
theorem witness_GraphInstructionResult :
    let pa := leaf.pa 256
    let at_ (s : State) (p n : Nat) : List Byte := (List.range n).map fun j => s.mem.read (p + j)
    let s := on (three 256 512 8) (cellsAt pa [0x31] ++ cellsAt (leaf.pa 512) (natLe 4 6 ++ natLe 4 0))
    let l := on (three 256 512 8) (cellsAt pa [0x01, 7] ++ cellsAt (leaf.pa 512) ([2, 0, 0, 0] ++ natLe 4 3))
    let k := s.dev.blk
    let p := node (at_ s pa 128)
    k.plainS 1 ∧ k.plainS 2 ∧ s.dev.still ∧ k.pend = [] ∧ s.sees k.scalarUnit 256 .atomic leaf ∧
    s.openLine (lineOf (leaf.pa 256)) ∧ (k.sv 1).toNat % 128 = 0 ∧ (k.sv 2).toNat % 128 = 0 ∧ s.sees k.scalarUnit 512 .read leaf ∧
    s.sees k.scalarUnit 512 .atomic leaf ∧ s.openLine (lineOf (leaf.pa 512)) ∧ p.busy = false ∧ s.dev.entriesOf 16 + 8 ≤ s.dev.queueRoom 16 ∧ nodeDescOk (at_ s (leaf.pa 512) 32) = true ∧
    (node (at_ l pa 128)).clean = true ∧ (node (at_ l (leaf.pa 512) 128)).clean = true ∧ (node [1, 0, 1]).clean = false ∧
    (node (at_ l pa 128)).busy = false ∧ (node (at_ l pa 128)).succs = 7 ∧ (node (at_ l (leaf.pa 512) 128)).busy = false ∧
    (node (at_ l (leaf.pa 512) 128)).preds = 3 ∧ (node [0x21]).busy = true ∧ (node [0x01, 8]).succs = 8 ∧
    (s.dev.graphsOf (k.place.core / 8)) < 16 ∧ p.ok = true ∧ p.succs = 0 ∧ p.preds = 0 ∧ (k.sv 3).toNat % 8 = 0 ∧
    s.sees k.scalarUnit (k.sv 3).toNat .atomic leaf := by
  and_intros <;>
    first
    | decide +kernel
    | exact fun _ => rfl
    | ((try unfold Block.plainS)
       decide +kernel)

/-- A graph of the block's whose first node is `r`. -/
def graphOf (rs : List NodeRun) : Graph :=
  { num := 3, who := block.id, cluster := 0, nodes := rs, scope := 1, cw := 2 ^ 31 + 4096, cwVa := 4096, level := .user,
    pc := 0, abandoned := false, batch := none }

/-- GraphWalkerResult: nodes of no work, a copy and a clear that start; a node that ends with a successor that waits for
it and another; an abandoned one with a free slot; an abandoned graph with two nodes that never started; a graph that is
over. -/
theorem witness_GraphWalkerResult :
    let r : NodeRun := { va := 256, next := [], started := false, ended := false, bad := false }
    let d : NodeRun := { r with started := true, next := [512] }
    let e : NodeRun := { r with started := true, ended := true }
    let o : Op := { opOf (.zero 0 8) 0 with node := some (3, 0), bad := some 4 }
    let body (k : Nat) : Memory := cellsAt (leaf.pa 256) ([BitVec.ofNat 8 (16 + k)] ++ natLe 15 0 ++ natLe 8 0 ++ natLe 8 0x4000 ++ natLe 8 64)
    let s := onEng [] [graphOf [r]] (body 1)
    let t := onEng [] [graphOf [d]] (body 2 ++ cellsAt (leaf.pa 512 + 8) [2])
    let a := onEng [o] [graphOf [d]] (queueAt 16 3 0 ++ body 2)
    let u := onEng [] [graphOf [e]] []
    let z := onEng [] [{ graphOf [e, r, { r with va := 512 }] with abandoned := true }] []
    let n (s : State) := node ((List.range 128).map fun j => s.mem.read (leaf.pa 256 + j))
    let sp : Space := { core := s.dev.walkerCore 0, unit := .walker, asid := block.id.asid, root := block.id.root, level := .user }
    s.dev.still ∧ s.holds sp .user 256 .atomic leaf ∧ s.openLine (lineOf (leaf.pa 256)) ∧ leaf.pa 256 % 128 = 0 ∧
    s.dev.runningNodes 0 < 64 ∧ (n s).remaining = 0 ∧ (n s).kind = 1 ∧ (n (onEng [] [graphOf [r]] (body 6))).kind = 6 ∧
    (n t).kind = 2 ∧ s.dev.pickCluster 0 = some (0, 0) ∧ (n s).p2 < 2 ^ 40 ∧ t.dev.nodeOp 3 0 = none ∧ (n t).kind < 16 ∧
    t.holds sp .user 512 .atomic leaf ∧ t.openLine (lineOf (leaf.pa 512)) ∧ leaf.pa 512 % 128 = 0 ∧ leaf.pa 512 ≠ leaf.pa 256 ∧
    1 ≤ t.mem.number (leaf.pa 512 + 8) 4 ∧ (d.next.map leaf.pa).Nodup ∧ a.dev.nodeOp 3 0 = some o ∧ a.dev.fq.held = [] ∧
    a.dev.still ∧ (∀ o ∈ a.dev.eng.ops, ∀ l, markRecopy l o = o) ∧
    (∃ q, (Work.start a).queueDesc (16 + o.who.fn) = some q ∧
      a.mem.number q.control 8 - a.mem.number (q.control + 128) 8 < q.slots ∧ a.mem.number q.control 8 < 2 ^ 64 - 1 ∧
      q.control + 0x200 + 384 * q.slots ≤ leaf.pa 256) ∧
    (∀ va ∈ [256, 512], z.holds sp .user va .atomic leaf ∧ z.openLine (lineOf (leaf.pa va)) ∧ leaf.pa va % 128 = 0) ∧
    [e, r, { r with va := 512 }].filter (fun x => !x.ended) = [r, { r with va := 512 }] ∧ r.started = false ∧
    ([r, { r with va := 512 }].map fun x => leaf.pa x.va).Nodup ∧ z.dev.still ∧
    (∀ x ∈ [e], x.ended = true) ∧ u.openLine (lineOf (graphOf [e]).cw) := by
  and_intros <;>
    first
    | decide +kernel
    | exact fun _ => rfl
    | ((try simp only [State.openLine, own_iff, holds_iff]); decide +kernel)
    | (intro o ho l; obtain rfl := List.mem_singleton.mp ho; rfl)

/-- BlockEventResult: a quiet block at the last clock before promotion and at it, waits of every kind that are over or
not, a notice, a window, a hard pre-emption, a stop point, a batch that is answered, rows that arrive. -/
theorem witness_BlockEventResult :
    let r := shaped 16 16 4
    let v := version r (List.range 64)
    let at_ (f : Block → Block) (clock : Nat := 64) (mem : Memory := []) : State :=
      { on f mem with dev := { devOf f with clock := clock } }
    let s := at_ id
    let k := s.dev.blk
    let wait (w : Wait) (b : Block) : Block := { b with run := .waiting, wait := w, p := b.p }
    let full (b : Block) : Block := bind 1 1 r v b
    let inb (b : Block) : Block := { b with t := b.t.setIfInBounds 1 { TileReg.reset with bound := some 1, inbox := some v } }
    let sl (b : Block) : Block := b.setQueue 3 (streamQ .filling 5 4 [v])
    let asked (b : Block) : Block := { b with preempt := some { area := 0x4000, resume := 0, begun := false } }
    let m : MmavStop := { rows := 3, words := [(0, AccWord.zero), (5, AccWord.zero)], pc := 64 }
    let bb : BlockBatch := { id := 4, fetch := false, elem := 2, flt := 0, va := 0, pc := k.pc }
    let answered : State := { s with dev := { s.dev with
      blk := { k with parked := some bb, again := some k.pc, ps := { k.ps with reissue := true } },
      fq := { s.dev.fq with batches := [{ id := 4, owner := .block k.id.key, record := none, pc := k.pc, queueFn := 0, answer := some .serviced }] } } }
    k.run = .ready ∧ k.lastIssue + 64 ≤ s.dev.clock ∧ (at_ id 63).dev.clock < k.lastIssue + 64 ∧
    (wait (.tile 1) k).run = .waiting ∧ ((inb k).tile 1).inbox ≠ none ∧ ((full k).tile 1).inbox = none ∧
    s.dev.eng.forwards = [] ∧ s.mem.number (2 ^ 31) 8 ≠ 7 ∧ s.dev.calm ∧ s.ownLine (lineOf (2 ^ 31)) ∧
    s.mem.number (2 ^ 31) 8 = 0 ∧ ((sl k).queue 3).slots ≠ [] ∧ 0 ≤ s.dev.cycle k.place.core ∧
    ((wait (.tileLimit 1 0 2) (full k)).tile 1).inbox = none ∧ k.yieldUntil ≤ s.dev.clock ∧ k.xfer = none ∧ k.stop = none ∧
    k.batch = none ∧ k.fencing = false ∧ s.dev.link.reqs = [] ∧ (asked k).preempt ≠ none ∧ k.ps.notice = false ∧
    ({ k.csr with noticepc := 4 } : Csr).noticepc ≠ 0 ∧ k.window = none ∧ k.csr.noticepc = 0 ∧ s.dev.unc.upsets = [] ∧
    (m.words.map (·.1)).Nodup ∧ answered.dev.blk.parked = some bb ∧ answered.dev.blk.reissuing = true ∧
    ({ k.ps with notice := true } : Pstate).notice = true ∧ answered.dev.answer bb.id ≠ none ∧ ((full k).tile 1).ver.empty = false ∧
    8 * 1 < ((full k).tile 1).ver.rows := by
  and_intros <;> decide +kernel

theorem witness_BlockEventResult_another :
    let s := gang2 id id
    let key := member.id.key
    s.dev.blk.id.key ≠ key ∧ s.dev.others.find? (·.id.key == key) = some member ∧
    (∀ x ∈ s.dev.others, x.id.key ≠ s.dev.blk.id.key) := by
  and_intros <;> decide +kernel

/-- A block that is being saved at area 4096, without scratch and tile store. -/
def savingBlock (area : Word) (begun : Bool) (b : Block) : Block :=
  { b with run := .saving, preempt := some { area := area, resume := 8, begun := begun },
           place := { b.place with tsRows := 0, scratch := 0 } }

/-- The machine with that block, its launch alike. -/
def onSaving (area : Word) (begun : Bool) : State :=
  { on id with dev := { devOf (savingBlock area begun) with
      lu := { (devOf id).lu with launches := [{ launch1 with hdr := { launch1.hdr with tsRows := 0, scratch := 0 } }] },
      unc := { (devOf id).unc with tlb := [{ core := 0, unit := .save, asid := 0, page := 0, leaf := leaf }] } } }

theorem seen_of (begun : Bool) (x : Nat) (h : x < 4096 + 262144) :
    (Work.start (onSaving 4096 begun)).cached ((onSaving 4096 begun).dev.blk.spaceOf .save) x = some leaf := by
  have size : leaf.size = 2 ^ 30 := by decide
  have page : TlbUnit.save.page leaf x = 0 := by
    rw [show TlbUnit.save.page leaf x = x / leaf.size * leaf.size from rfl, size, Nat.div_eq_of_lt (by omega), Nat.zero_mul]
  have tlb : (Work.start (onSaving 4096 begun)).dev.unc.tlb = [{ core := 0, unit := .save, asid := 0, page := 0, leaf := leaf }] := rfl
  have hit : (true && true && true && TlbUnit.save.page leaf x == 0) = true := by simp [page]
  unfold Work.cached
  rw [tlb]
  exact congrArg (Option.map TlbEntry.leaf) (List.find?_cons_of_pos hit)

theorem own_of (begun : Bool) (x : Nat) (h : x < 262144) : (onSaving 4096 begun).freeLine (lineOf (leaf.pa 4096 + x)) := by
  have tags : (onSaving 4096 begun).tags.read (lineOf (leaf.pa 4096 + x)) = 0 := by
    rw [show (onSaving 4096 begun).tags = [] from rfl]
    rfl
  have pa : leaf.pa 4096 = 2 ^ 31 + 4096 := by decide +kernel
  refine ⟨⟨?_, ?_, ?_⟩, ?_⟩
  · rw [pa]
    unfold lineOf
    omega
  · rw [tags]
    decide
  · rw [tags]
    decide
  · have base : (Work.start (onSaving 4096 begun)).dev.fw.windowBase = 0 := rfl
    have len : (Work.start (onSaving 4096 begun)).dev.fw.windowLen = 0 := rfl
    unfold Work.hostFree Work.inWindow
    rw [base, len]
    simp

/-- SaveResult: an area whose pages are there, before and after the save engine has begun, and one beyond the address
space. -/
theorem witness_SaveResult :
    let s := onSaving 4096 false
    let t := onSaving 4096 true
    let k := s.dev.blk
    let l : Launch := { launch1 with hdr := { launch1.hdr with tsRows := 0, scratch := 0 } }
    let p (begun : Bool) : Preempt := { area := 4096, resume := 8, begun := begun }
    (k.run = .saving ∧ k.preempt = some (p false) ∧ t.dev.blk.preempt = some (p true) ∧
      s.dev.launch k.id.key.lid = some l ∧ t.dev.launch k.id.key.lid = some l ∧ k.pend = [] ∧ t.dev.blk.pend = [] ∧
      s.dev.calm ∧ t.dev.calm ∧ s.dev.svc.stage ≠ .running ∧ t.dev.svc.stage ≠ .running ∧
      (∀ x ∈ s.dev.blocks ++ t.dev.blocks, x.xfer.map (·.dest) ≠ some k.id.key) ∧
      (∀ x ∈ k.saveImage l.hdr 4096 8 (s.dev.cycle k.place.core), x.1 + x.2.length ≤ 262144) ∧
      4096 % 4096 = 0 ∧ 4096 + 262144 ≤ 2 ^ 48 ∧
      leaf.w = true ∧ 65536 ∣ leaf.size ∧ 65536 ∣ leaf.base ∧ 4096 % leaf.size + 262144 ≤ leaf.size ∧
      t.dev.abortPending k.id.key.lid k.id.gang = false ∧
      2 ^ 48 ≤ ((2 ^ 48 : Nat) : Word).toNat ∧ ((2 ^ 48 : Nat) : Word).toNat + 0x2000 < 2 ^ 64) ∧
    (∀ begun x, 4096 ≤ x → x < 4096 + 262144 →
      (Work.start (onSaving 4096 begun)).cached ((onSaving 4096 begun).dev.blk.spaceOf .save) x = some leaf) ∧
    (∀ begun l, (onSaving 4096 begun).dev.stalled l = false) ∧
    (∀ begun x, x < 262144 → (onSaving 4096 begun).freeLine (lineOf (leaf.pa 4096 + x))) := by
  refine ⟨?_, fun b x _ => seen_of b x, fun _ _ => rfl, own_of⟩
  unfold Dev.calm
  decide +kernel

/-- Queue 2's descriptor and counts, a record at its next slot and a header at 0x20000, beside a valid context 0. -/
def queue2 (made used : Nat) (rec : List Byte) : Memory :=
  contextMem ++ cellsAt 128 (natLe 8 0x10000 ++ [4, 3]) ++ cellsAt 0x10000 (natLe 8 made) ++ cellsAt 0x10080 (natLe 8 used) ++
    cellsAt (0x10200 + used % 16 * 64) rec ++ cellsAt 0x20000 (natLe 8 0x1000 ++ natLe 8 0 ++ natLe 2 8 ++ natLe 6 0 ++ [32])

/-- The machine with launch `l`, queue 2 as the unit last saw it, and block `f`. -/
def onLu (l : Launch) (f : Block → Block) (mem : Memory) : State :=
  { on id mem with dev := { devOf f with lu := { (devOf f).lu with
      launches := [l], queues := (devOf f).lu.queues.setIfInBounds 2 { stopped := false, reported := false, seen := 7 } } } }

/-- LaunchUnitResult: a queue with records and an empty one, a descriptor that breaks R322, records of each kind that are
accepted and that are not, a gang that fits, a launch that is ended. -/
theorem witness_LaunchUnitResult :
    let d : QueueDesc := { control := 0x10000, slots := 16, controls := true, msix := false, fn := 0, vector := 0, ctx := 0 }
    let c : Context := { root := 0, asid := 0, level := .user, fn := 0, logbase := 0, caphead := 0 }
    let kind1 (x : Nat) : List Byte := [1, 3, 2, 0] ++ natLe 4 7 ++ natLe 8 0x20000 ++ natLe 2 x ++ natLe 2 1 ++ natLe 4 1
    let control (k lid : Nat) : List Byte := natLe 8 k ++ natLe 8 lid ++ natLe 8 (if k = 4 then 0 else 0x4000) ++ natLe 8 0x30000
    let s := onLu launch1 id (queue2 7 5 (kind1 4))
    let on_ (rec : List Byte) (l : Launch := launch1) (f : Block → Block := id) := onLu l f (queue2 7 5 rec)
    let next (s : State) (f : List Byte → Bool) : Bool := match (Work.start s).nextRecord 2 with
      | some (x, n, bs) => x = d && n = 5 && f bs
      | none => false
    let code (s : State) (bs : List Byte) : Option Nat :=
      ((Work.start s).consume 2 d 5).hostReject d bs ((Work.start s).hostHeader (launchRec bs).header)
    let old : Launch := { launch1 with saved := [{ gang := 0, members := [0], area := 0x4000, whole := true, want := none, first := false, since := 0, waited := false }] }
    let back : Launch := { old with saved := old.saved.map fun x => { x with want := some 0 } }
    let gone (b : Block) : Block := { b with run := .retired }
    let odd := on id (cellsAt 128 [0, 0, 1] ++ [])
    let twice : Launch := { launch1 with dimX := 2 }
    let t := onLu twice id contextMem
    let x : Candidate := { lid := 1, cls := 3, saved := none, first := false, reserving := false }
    let ended : Launch := { launch1 with retired := 1, done := some (2 ^ 31) }
    let u := onLu ended id []
    (Work.start s).queueDesc 2 = some d ∧ (Work.start s).badDesc 2 = false ∧ (Work.start odd).badDesc 2 = true ∧
    (Work.start odd).queueDesc 16 = none ∧ (Work.start (on id (queueAt 80 3 0))).badDesc 80 = false ∧ s.dev.fq.held = [] ∧
    (∀ j, j < 16 → (Work.start (onLu launch1 id (queue2 7 7 []))).nextRecord j = none) ∧ s.dev.direct ∧
    (Work.start (onLu launch1 id (queue2 7 7 []))).queueDesc 2 = some d ∧
    next s (fun bs => recordKind bs = 1 && code s bs = none && ((Work.start s).hostHeader 0x20000).isSome &&
      (launchRec bs).header = 0x20000 && (launchRec bs).status = 0) = true ∧
    next (on_ (kind1 5)) (fun bs => recordKind bs = 1 && code (on_ (kind1 5)) bs = some 3) = true ∧
    s.dev.lu.launches.length < Config.launchEntries ∧ (Work.start s).badLine (lineOf (0x10200 + 5 * 64)) = none ∧
    ((Work.start s).consume 2 d 5).context 0 = (Work.start s).context 0 ∧ (Work.start s).context 0 = some c ∧
    next (on_ (control 2 1)) (fun bs => recordKind bs = 2 && (on_ (control 2 1)).dev.controlAccepted d bs = some launch1 &&
      (controlRec bs).lid = 1 && ((controlRec bs).named launch1).contains 0) = true ∧
    s.dev.blk.resident = true ∧ s.dev.blk.id.key.lid = 1 ∧ s.dev.blk.id.gang = 0 ∧ s.dev.gangResident 1 0 = true ∧
    launch1.savedGang 0 = none ∧ s.dev.blk.preempt = none ∧ s.dev.blk.ps.notice = false ∧ s.dev.blk.run ≠ .saving ∧
    next (on_ (control 3 1) old gone) (fun bs => recordKind bs = 3 &&
      (on_ (control 3 1) old gone).dev.controlAccepted d bs = some old) = true ∧
    next (on_ (control 4 1) launch1 gone) (fun bs => recordKind bs = 4 &&
      (on_ (control 4 1) launch1 gone).dev.controlAccepted d bs = some launch1) = true ∧ s.dev.eng.fills = [] ∧
    s.dev.others = [] ∧ (∀ k ∈ [2, 3, 4], next (on_ (control k 9)) (fun bs => recordKind bs = k &&
      (on_ (control k 9)).dev.controlAccepted d bs = none) = true) ∧
    s.dev.candidates = [] ∧ t.dev.candidates = [x] ∧ x.saved = none ∧ t.dev.launch 1 = some twice ∧
    (Work.start t).context twice.ctx = some c ∧ twice.nextGangs = [1] ∧
    (t.dev.placeGangs t.dev.places twice.hdr 1 [1]).map (·.map fun x => (x.1, x.2.length)) = some [(1, 1)] ∧
    u.dev.launch 1 = some ended ∧ u.dev.finished ended = true ∧ ended.notify = false ∧ u.dev.still ∧ launch1.done = none ∧
    ended.done = some (2 ^ 31) ∧ u.freeLine (lineOf (2 ^ 31)) ∧ (onLu { launch1 with retired := 1 } id []).dev.finished { launch1 with retired := 1 } = true ∧
    t.dev.candidates[0]? = some x ∧ (onLu back gone []).dev.launch 1 = some back ∧
    (onLu back gone []).dev.candidates.map (·.saved) = [some 0] ∧ s.dev.finished launch1 = false := by
  and_intros <;> first
    | exact fun _ => rfl
    | decide +kernel

/-- EnergyThermalPagingResult: a window that has ended, and one that has been charged; sensors that ask for a step of each
kind, for none, and a core that is not; an answer to an open batch; a held record and a queue with a free slot. -/
theorem witness_EnergyThermalPagingResult :
    let b : Batch := { id := 4, owner := .op 7, record := some 0x10200, pc := 0, queueFn := 0, answer := none }
    let h : HeldRec := { fn := 0, body := List.replicate 384 1, batch := none }
    let s : State := { on id (queueAt 16 3 0 ++ cellsAt 0x10100 [1] ++ cellsAt 0x10200 [1, 3]) with
      dev := { devOf id with clock := 2048, fq := { (devOf id).fq with batches := [b], held := [h] } } }
    let steps : List Nat := [4, 8, 16, 32, 128]
    let cap (n : Nat) : Nat := ({ s.dev with cores := [(5, { Core.reset with cap := n })] }.core 5).cap
    s.dev.mayCharge 5 1 = true ∧ (devOf id).mayCharge 5 1 = false ∧ s.dev.launch 1 = some launch1 ∧
    (319 : Nat) < Config.cores ∧ Config.cores ≤ 320 ∧
    (95 < 96 ∧ 32 ∈ steps ∧ 32 < (s.dev.core 5).cap ∧ ∀ n ∈ steps, n < (s.dev.core 5).cap → n ≤ 32) ∧
    (89 < 90 ∧ 16 ∈ steps ∧ cap 8 < 16 ∧ ∀ n ∈ steps, cap 8 < n → 16 ≤ n) ∧ cap 4 = 4 ∧ (s.dev.core 5).cap = 128 ∧
    90 ≤ 95 ∧ s.dev.direct ∧ (∃ q, (Work.start s).queueDesc (16 + 0) = some q ∧
      (∀ x ∈ s.dev.fq.queues, x.seen < s.mem.number (q.control + 256) 8) ∧
      0 < s.mem.number (q.control + 256) 8 ∧ (Work.start s).ownLe q.control 8 - s.mem.number (q.control + 128) 8 < q.slots ∧
      (Work.start s).ownLe q.control 8 < 2 ^ 64 - 1) ∧
    b.answer = none ∧ s.mem.number 0x10200 1 = 1 ∧ s.mem.number 0x10201 1 = 3 := by
  and_intros <;> decide +kernel

/-- The machine whose line 2 ^ 24 has state `st` and party `party`, changed by `f`. -/
def homed (st party : Nat) (f : Dev → Dev := id) : State :=
  { on id with tags := [(2 ^ 24, metaWith 0 st party)], dev := f (devOf id) }

/-- HomeReadResult: a line in every state, for peer 0, peer 1023 and the one that holds it; a transaction that waits. -/
theorem witness_HomeReadResult :
    let st (s : State) : Nat := metaState (s.tags.read (2 ^ 24))
    let party (s : State) : Nat := metaParty (s.tags.read (2 ^ 24))
    let x : Txn := { line := 2 ^ 24, kind := .rdX 1023 9, tag := 4095, awaiting := [7], wbFrom := none }
    (∀ s ∈ [homed 0 0, homed 1 7, homed 2 7, homed 3 7, homed 4 7, homed 5 7],
      (metaState (s.tags.read (2 ^ 24)) ≤ 5 ∧ (s.tags.read (2 ^ 24)).getLsbD 15 = false) ∧
      (Work.start s).inWindow (2 ^ 24) = false ∧ s.dev.link.queued = [] ∧ s.dev.err.reg = 0) ∧
    (homed 0 0).grantable (2 ^ 24) ∧ (homed 5 7).grantable (2 ^ 24) ∧ (homed 0 0).dev.calm ∧
    st (homed 0 0) = 0 ∧ st (homed 1 7) = 1 ∧ party (homed 1 7) = 7 ∧ st (homed 2 7) = 2 ∧ party (homed 2 7) = 7 ∧
    st (homed 3 7) = 3 ∧ party (homed 3 7) ≠ 1023 ∧ st (homed 4 7) = 4 ∧ st (homed 5 7) = 5 ∧ party (homed 5 7) ≠ 0 ∧
    (Work.start (homed 3 7)).remotes (2 ^ 24) true ≠ [] ∧ (Work.start (homed 4 1)).remotes (2 ^ 24) true ≠ [] ∧
    (Work.start (homed 5 7)).remotes (2 ^ 24) true ≠ [] ∧ x.awaiting = [7] ∧ (List.replicate 128 (0 : Byte)).length = 128 := by
  and_intros <;> decide +kernel

/-- HomeWriteResult: a peer that holds the line and one that does not; masks, offsets and operations at their bounds. -/
theorem witness_HomeWriteResult :
    let st (s : State) : Nat := metaState (s.tags.read (2 ^ 24))
    let party (s : State) : Nat := metaParty (s.tags.read (2 ^ 24))
    (homed 0 0).dev.calm ∧ (homed 0 0).dev.link.queued = [] ∧ (homed 0 0).grantable (2 ^ 24) ∧
    (List.replicate 128 (5 : Byte)).length = 128 ∧ (homed 2 7).grantable (2 ^ 24) ∧ st (homed 2 7) = 2 ∧ party (homed 2 7) = 7 ∧
    ¬ ((st (homed 2 7) = 2 ∨ st (homed 2 7) = 5) ∧ party (homed 2 7) = 1023) ∧ (homed 0 0).dev.err.reg = 0 ∧
    st (homed 0 0) = 0 ∧ st (homed 1 7) = 1 ∧ (homed 1 7).grantable (2 ^ 24) ∧ (2 ^ 127 : Nat) % 2 ^ 128 ≠ 0 ∧
    (9 : Nat) ≤ 9 ∧ (120 : Nat) < 128 ∧ 120 % (64 / 8) = 0 ∧ 124 % (32 / 8) = 0 ∧ (13 : Nat) ≤ 13 := by
  and_intros <;> decide +kernel

/-- HolderAndPortResult: a line held of peer 1023, forwarded and not; a request of each kind that its answer meets. -/
theorem witness_HolderAndPortResult_holder :
    let h : HeldLine := { line := 2 ^ 42 - 1, home := 1023, modified := true, owner := true, data := List.replicate 128 5, poison := false, forwarded := [] }
    let r (k : ReqKind) : Req := { tag := 9, kind := k, peer := 1023, line := 4, by_ := none, slice := 0, elem := some 0, expect := none, answer := none }
    let d : Dev := devOf id
    let held : Dev := { d with link := { d.link with held := [h] } }
    let out (k : ReqKind) : Dev := { d with link := { d.link with reqs := [r k] } }
    (1023 : Nat) < 1024 ∧ h.line < 2 ^ 42 ∧ held.link.held = [h] ∧ h.home = 1023 ∧ h.forwarded = [] ∧
    ({ h with forwarded := [7] } : HeldLine).forwarded = [7] ∧ held.link.txns = [] ∧ held.link.queued = [] ∧ held.calm ∧
    d.link.held = [] ∧ (∀ k ∈ [ReqKind.read, .write, .inv, .atomic], (out k).link.reqs = [r k] ∧ (out k).link.txns = [] ∧
      (r k).tag = 9 ∧ (r k).peer = 1023 ∧ (r k).answer = none ∧ (r k).kind = k) ∧ d.link.reqs = [] := by
  and_intros <;> decide +kernel

/-- HolderAndPortResult: a full replay buffer of 256 and a number asked for, a port of 4, 2 and 1 lanes and a dead one;
another port that takes a message, and none; a message that is lost with its request, and one that is not yet; the ends of
the expanders' regions. -/
theorem witness_HolderAndPortResult_port :
    let m : Msg := plainMsg .rdS 5 9 4
    let port (lanes version : Nat) (q : List Msg) : Port := { lanes := lanes, version := version, partner := 1, partnerPort := 0, training := false, seq := 255, acked := 0, replay := q, asked := 0 }
    let r (k : ReqKind) : Req := { tag := 9, kind := k, peer := 5, line := 4, by_ := none, slice := 0, elem := some 0, expect := none, answer := none }
    let two (q : List Msg) (u : List Msg) (k : ReqKind) : State := { on id (cellsAt 20 [3, 0, 128]) with dev := { devOf id with
      link := { (devOf id).link with ports := ((devOf id).link.ports.setIfInBounds 0 (port 2 1 q)).setIfInBounds 23 (port 1 2 []), unsent := u, reqs := [r k] }, clock := 10000000 } }
    let s := two [m] [] .write
    let p := s.dev.link.ports.toList.getD 0 Port.reset
    (0 : Nat) < 24 ∧ (p.seq + 4096 - (253 + 1) % 4096) % 4096 ≤ p.replay.length ∧ s.dev.link.unsent = [] ∧
    (s.dev.link.ports.toList.getD 1 Port.reset).lanes = 0 ∧ (port 4 2 []).lanes = 4 ∧ (port 2 2 []).version = 2 ∧
    p.lanes = 2 ∧ p.version = 1 ∧ p.replay = [m] ∧ ((Work.start s).livePorts m.dest).filter (· ≠ 0) = [23] ∧
    (s.dev.link.ports.toList.getD 23 Port.reset).lanes = 1 ∧
    (∀ x ∈ (s.dev.link.ports.toList.getD 23 Port.reset).replay, ∀ j ∈ (Work.start s).livePorts x.dest, j = 23) ∧
    (two [] [m.parked 0] .write).dev.link.unsent = [m.parked 0] ∧ m.op < 0x20 ∧ 0x20 ≤ (plainMsg .data 5 9 4).op ∧ (m.parked 0).tag = 9 ∧ (m.parked 0).since = some 0 ∧
    0 + 10000000 ≤ s.dev.clock ∧ (m.parked 1).since = some 1 ∧ s.dev.clock < 1 + 10000000 ∧ s.dev.err.reg = 0 ∧ (two [] [m.parked 0] .read).dev.link.reqs = [r .read] ∧
    (r .read).peer = m.dest ∧ (r .write).answer = none ∧ s.dev.link.lost = [] ∧ 2 ^ 60 ≤ 2 ^ 53 * 128 ∧ 2 ^ 53 * 128 < 3 * 2 ^ 60 ∧
    (2 ^ 53 - 1) * 128 < 2 ^ 60 := by
  and_intros <;> decide +kernel

/-- ReplayResult: a block of lanes 0 to 31 alone on its device; its last group, and one that it does not hold. -/
theorem witness_ReplayResult :
    let marble (b : Block) : Block := { b with ps := { b.ps with marble := true } }
    let s := on marble
    let k := s.dev.blk
    k.resident = true ∧ k.place.holdsGroup 3 = true ∧ k.place.holdsGroup 4 = false ∧ s.dev.err.reg = 0 ∧ k.ps.marble = true ∧
    s.dev.others = [] ∧ s.dev.svc.stage ≠ .running ∧ s.dev.link.reqs = [] ∧ k.xfer = none ∧ k.preempt = none ∧ k.stop = none ∧ k.fencing = false ∧ 16 ≤ 32 ∧ 32 < 33 ∧
    k.run = .ready ∧ s.dev.launch k.id.key.lid = some launch1 ∧ launch1.savedGang k.id.gang = none ∧ block.ps.marble = false := by
  and_intros <;> decide +kernel

/-- The machine at the end of a hot-page window, with what `f` makes of its cells. -/
def onCells (l : Leaf) (f : Uncore → Uncore) (limit : Nat) (mem : Memory) : State :=
  { on id mem with
    dev := { devOf id l with
      clock := hotWindow, unc := f (devOf id l).unc, fw := { (devOf id l).fw with missLimit := limit } } }

/-- ReplayResult: the last row and one beyond it; partitions with and without rows; errors of both kinds at levels 0 and 4;
a page that misses often and one that does not, pinned or not, with a queue and without; a starved line. -/
theorem witness_ReplayResult_cells :
    let page : Leaf := { leaf with size := 65536 }
    let u (f : Bool) : Upset := { loc := .line (2 ^ 24) false, fatal := f, syndrome := 1 }
    let s := onCells page (fun c => { c with upsets := [u true], drowsy := [(319, 3, 1535)] }) 0 []
    let w := Work.start s
    let x : Nat × Nat := (2 ^ 31 / 65536, 5)
    let t (pin : Bool) (limit : Nat) (mem : Memory) :=
      onCells page (fun c => { c with misses := [x], l2 := [way pin] }) limit mem
    let die := w.homeDie (2 ^ 31)
    let at_ := w.locate (plOfPa (2 ^ 31)) (2 ^ 31)
    let row : Nat := 2 ^ 24
    let z (mem : Memory) := onCells page (fun c => { c with starved := [row] }) 0 mem
    let y := (Work.start (z [])).stackEntry (stackOfLine row)
    (((319, 3, 1535) : Nat × Nat × Nat) ∈ s.dev.unc.drowsy ∧ ((0, 0, 0) : Nat × Nat × Nat) ∉ s.dev.unc.drowsy ∧
      s.dev.lastRowUse 0 0 + 16384 ≤ s.dev.clock ∧ s.dev.unc.rowUsed (0, 0, 0) + 16384 ≤ s.dev.clock ∧ (on id).dev.clock < 16384 ∧
      ¬ (319 < Config.cores ∧ 3 < 4 ∧ 1536 < 1536) ∧ (319 < Config.cores ∧ 3 < 4 ∧ 1535 < 1536) ∧
      s.dev.rowsHeld 319 3 = 0 ∧ s.dev.rowsHeld 0 0 ≠ 0) ∧
    (s.dev.scrubField 4 ≠ 0 ∧ s.dev.scrubField 5 = 0 ∧ s.dev.unc.upsets = [u true] ∧
      w.inUnit 4 at_.stack at_.channel (u true) = true ∧ (u true).fatal = true ∧ (u false).fatal = false ∧
      w.inUnit 4 at_.stack at_.channel (u false) = true ∧ s.dev.err.reg = 0) ∧
    (die < 2 ∧ s.dev.windowOver die = true ∧ (on id).dev.windowOver die = false ∧ w.dieMisses die = [] ∧
      (∀ pin ∈ [false, true], (Work.start (t pin 0 [])).dieMisses die = [x] ∧ (t pin 0 []).dev.windowOver die = true ∧
        (t pin 0 []).dev.onTheMove (65536 * x.1) = false ∧ (t pin 0 []).dev.fw.missLimit < x.2) ∧
      x.2 ≤ (t false 5 []).dev.fw.missLimit ∧ way true ∈ (t true 0 []).dev.unc.l2 ∧ (way true).line / 512 = x.1 ∧
      (∀ pin ∈ [false, true], (Work.start (t pin 0 [])).onPage (65536 * x.1) (·.domain) = true) ∧
      (Work.start (onCells { page with domain := false } (fun c => { c with misses := [x] }) 0 [])).onPage (65536 * x.1) (·.domain) = false ∧
      (∀ y ∈ (t false 0 []).dev.unc.l2, y.pin = false) ∧
      (Work.start (t false 0 [])).queueDesc 16 = none ∧ 65536 * x.1 < 2 ^ 64) ∧
    (∃ q, (Work.start (t false 0 (queueAt 16 3 0))).queueDesc 16 = some q ∧
      (Work.start (t false 0 (queueAt 16 3 0))).ownLe q.control 8 - (t false 0 (queueAt 16 3 0)).mem.number (q.control + 128) 8 < q.slots ∧
      (Work.start (t false 0 (queueAt 16 3 0))).ownLe q.control 8 < 2 ^ 64 - 1 ∧ (t false 0 (queueAt 16 3 0)).dev.direct) ∧
    (s.dev.fq.held = [] ∧ s.dev.unc.starved = [] ∧ (z []).dev.unc.starved = [row] ∧
      (z []).mem.number (y + 4) 4 = 0 ∧ (z []).mem.number (y + 16) 4 = 0 ∧
      (z (cellsAt (y + 4) [1])).mem.number (y + 4) 4 ≠ 0 ∧
      (∀ j, j < 128 → (z (cellsAt (y + 4) [1])).mem.read (row * 128 + j) = 0)) := by
  refine ⟨?_, ?_, ?_, ⟨_, rfl, ?_, ?_, rfl, rfl⟩, ?_⟩ <;> decide +kernel

/-- ChannelResult: a channel with a spare, the last one without, with the other generation in use and not; a copy that
ends, with an error in its line and without. -/
theorem witness_ChannelResult :
    let put (st : Nat) (x : Stack) (us : List Upset) (mem : Memory) : State :=
      onCells leaf (fun c => { c with hbm := [(st, x)], upsets := us }) 0 mem
    let bare : Stack := { Stack.reset with spares := 0 }
    let at_ := (Work.start (on id)).locate (plOfPa (2 ^ 31)) (2 ^ 31)
    let u : Upset := { loc := .line (2 ^ 24) false, fatal := true, syndrome := 1 }
    let copy : Stack := { Stack.reset with copying := [at_.channel] }
    let s := put at_.stack copy [u] []
    let used := put 23 bare [] (cellsAt (16 * (2 * 23 + 1) + 8) [1])
    let x := (on id).dev.stack 23
    (60 : Nat) ∈ x.live x.gen ∧ 60 ∉ x.dead x.gen ∧ x.spares ≠ 0 ∧ 61 ∉ x.live x.gen ∧ bare.spares = 0 ∧ bare.gen = 0 ∧
    bare.dead0 = [] ∧ (Work.start (put 23 bare [] [])).genUsed 23 (1 - bare.gen) = false ∧
    (Work.start used).genUsed 23 (1 - bare.gen) = true ∧ used.dev.stack 23 = bare ∧
    (put 23 { bare with gen := 1 } [] []).dev.stack 23 = { bare with gen := 1 } ∧
    (Work.start (put 23 { bare with gen := 1 } [] [])).genUsed 23 0 = false ∧
    at_.channel ∈ (s.dev.stack at_.stack).copying ∧ s.dev.link.queued = [] ∧ s.dev.unc.upsets = [u] ∧
    u.loc = .line (2 ^ 24) false ∧ u.fatal = true ∧ (Work.start s).inUnit 4 at_.stack at_.channel u = true ∧
    (put at_.stack copy [] []).dev.unc.upsets = [] ∧ 60 ∉ x.copying ∧ x.dead x.gen = [] ∧ 60 ∉ x.asleep ∧
    (∀ n, n < Config.cores → ((on id).dev.core n).celsius < 110) ∧
    110 ≤ ({ (devOf id) with cores := [(319, { Core.reset with celsius := 110 })] }.core 319).celsius ∧ 319 < Config.cores := by
  and_intros <;> decide +kernel

/-- HostAndServiceResult: a line of the window in every state, one outside it, a device that does not run, a line of region 2
with a pinned way, one of the host's that is asked back and one that is not. -/
theorem witness_HostAndServiceResult_host :
    let window (st party : Nat) : State := homed st party fun d =>
      { d with fw := { d.fw with windowBase := 2 ^ 31, windowLen := 128 }, svc := { d.svc with stage := .running } }
    let s := window 0 0
    let l : Dev := { devOf id with link := { (devOf id).link with snoops := [2 ^ 24] } }
    let y : L2Line := { way true with line := 2 ^ 54 }
    s.dev.svc.stage = .running ∧ (devOf id).svc.stage ≠ .running ∧
    s.dev.calm ∧ s.dev.link.queued = [] ∧ regionOf (2 ^ 24 * 128) < 2 ∧ (Work.start s).inWindow (2 ^ 24) = true ∧
    (∀ st ∈ [0, 1, 2, 3, 4, 5], metaState ((window st 7).tags.read (2 ^ 24)) = st) ∧
    (List.replicate 128 (5 : Byte)).length ≤ 128 ∧ List.replicate 128 (5 : Byte) ≠ [] ∧
    (Work.start s).inWindow (2 ^ 24 + 1) = false ∧ regionOf (2 ^ 54 * 128) = 2 ∧ regionOf (2 ^ 24 * 128) ≠ 2 ∧
    y.away = false ∧ y.pin = true ∧ 2 ^ 24 ∈ l.link.snoops ∧ l.link.queued = [] ∧ 5 ∉ l.link.snoops := by
  and_intros <;> decide +kernel

/-- The header of an image of an empty body. -/
def imageHeader (key sig : List Byte) : List Byte :=
  natLe 4 0x4B5A5331 ++ natLe 4 0 ++ natLe 8 Config.rollback ++ natLe 8 0 ++ Config.sha512 [] ++ key ++ sig

theorem natLe_length (n v : Nat) : (natLe n v).length = n := by
  induction n generalizing v with
  | zero => rfl
  | succ n ih => simp [natLe, ih]

theorem leNat_natLe (n v : Nat) : leNat (natLe n v) = v % 256 ^ n := by
  induction n generalizing v with
  | zero => simp [natLe, leNat, Nat.mod_one]
  | succ n ih =>
    rw [natLe, leNat, ih, Nat.pow_succ', Nat.mod_mul]
    rfl

/-- What lies `n` bytes in. -/
theorem part_of {x a b c : List Byte} {n m : Nat} (h : x = a ++ (b ++ c)) (ha : a.length = n) (hb : b.length = m) :
    (x.drop n).take m = b := by
  subst h ha hb
  simp

/-- An image is accepted, if the functions that the spec leaves to their standards answer for it. -/
theorem accepted_of_functions (key sig : List Byte) (hk : key.length = 32) (hs : sig.length = 64)
    (hash : (Config.sha512 []).length = 64) (fused : Config.sha512 key = Config.fusedHash 0)
    (held : Config.revokedSlots.getLsbD 0 = false) (roll : Config.rollback < 2 ^ 64)
    (signed : Config.ed25519Verify key ((imageHeader key sig).take 120) sig = true) :
    let h := imageHeader key sig
    let part (at_ n : Nat) : List Byte := (h.drop at_).take n
    h.length = 184 ∧ leNat (part 0 4) = 0x4B5A5331 ∧ leNat (part 16 8) = ([] : List Byte).length ∧ leNat (part 4 1) < 4 ∧
    Config.sha512 (part 88 32) = Config.fusedHash (leNat (part 4 1)) ∧
    Config.revokedSlots.getLsbD (leNat (part 4 1)) = false ∧ Config.rollback ≤ leNat (part 8 8) ∧
    Config.ed25519Verify (part 88 32) (part 0 120) (part 120 64) = true ∧ Config.sha512 [] = part 24 64 := by
  have le4 : (natLe 4 0x4B5A5331).length = 4 := natLe_length ..
  have le4' : (natLe 4 0).length = 4 := natLe_length ..
  have le8 : ∀ v, (natLe 8 v).length = 8 := natLe_length 8
  have k : ((imageHeader key sig).drop 88).take 32 = key :=
    part_of (a := natLe 4 0x4B5A5331 ++ natLe 4 0 ++ natLe 8 Config.rollback ++ natLe 8 0 ++ Config.sha512 []) (c := sig)
      (by simp [imageHeader]) (by simp [le4, le4', le8, hash]) hk
  have slot : ((imageHeader key sig).drop 4).take 1 = natLe 1 0 :=
    part_of (a := natLe 4 0x4B5A5331) (c := natLe 3 0 ++ natLe 8 Config.rollback ++ natLe 8 0 ++ Config.sha512 [] ++ key ++ sig)
      (by simp [imageHeader, natLe]) le4 rfl
  have ver : ((imageHeader key sig).drop 8).take 8 = natLe 8 Config.rollback :=
    part_of (a := natLe 4 0x4B5A5331 ++ natLe 4 0) (c := natLe 8 0 ++ Config.sha512 [] ++ key ++ sig)
      (by simp [imageHeader]) (by simp [le4, le4']) (le8 _)
  have len : ((imageHeader key sig).drop 16).take 8 = natLe 8 0 :=
    part_of (a := natLe 4 0x4B5A5331 ++ natLe 4 0 ++ natLe 8 Config.rollback) (c := Config.sha512 [] ++ key ++ sig)
      (by simp [imageHeader]) (by simp [le4, le4', le8]) (le8 _)
  have sum : ((imageHeader key sig).drop 24).take 64 = Config.sha512 [] :=
    part_of (a := natLe 4 0x4B5A5331 ++ natLe 4 0 ++ natLe 8 Config.rollback ++ natLe 8 0) (c := key ++ sig)
      (by simp [imageHeader]) (by simp [le4, le4', le8]) hash
  have sign : ((imageHeader key sig).drop 120).take 64 = sig :=
    part_of (a := natLe 4 0x4B5A5331 ++ natLe 4 0 ++ natLe 8 Config.rollback ++ natLe 8 0 ++ Config.sha512 [] ++ key) (c := [])
      (by simp [imageHeader]) (by simp [le4, le4', le8, hash, hk]) hs
  have magic : ((imageHeader key sig).drop 0).take 4 = natLe 4 0x4B5A5331 :=
    part_of (a := []) (c := natLe 4 0 ++ natLe 8 Config.rollback ++ natLe 8 0 ++ Config.sha512 [] ++ key ++ sig)
      (by simp [imageHeader]) rfl le4
  have zero : leNat (natLe 1 0) = 0 := by decide
  and_intros <;> try dsimp only
  · simp [imageHeader, le4, le4', le8, hash, hk, hs]
  · rw [magic]
    decide
  · rw [len]
    decide
  · rw [slot, zero]
    decide
  · rw [k, slot, zero, fused]
  · rw [slot, zero, held]
  · rw [ver, leNat_natLe]
    omega
  · rw [k, sign]
    exact signed
  · exact sum.symm

/-- HostAndServiceResult: a device that stands by, one in recovery and one that runs; an image without a header, nonces of 31
and 32 bytes; a staged image; counters and caps at their bounds, and counters of a slice and a stack that are not there. -/
theorem witness_HostAndServiceResult :
    let d := devOf id
    let i : Image := { header := [], body := [] }
    let run : Dev := { d with svc := { d.svc with stage := .running, staged := some i, stages := [[1]] } }
    let part : Dev := { d with fw := { d.fw with slices := 0 }, unc := { d.unc with hbm := [(23, { Stack.reset with live0 := [] })] } }
    (d.svc.stage = .standby ∧ d.svc.stages = [] ∧ d.direct) ∧
    ({ d.svc with stage := .recovery 1 } : Service).stage = .recovery 1 ∧
    (run.svc.stage = .running ∧ run.svc.stages ≠ [] ∧ run.svc.staged = some i ∧ d.svc.staged = none) ∧
    (i.header.length ≠ 184 ∧ (List.replicate 32 (0 : Byte)).length = 32 ∧ (List.replicate 31 (0 : Byte)).length ≠ 32) ∧
    (0x110 ≤ 0x166 ∧ 0x166 % 16 ≤ 6 ∧ 319 < Config.cores ∧ 128 ∈ [4, 8, 16, 32, 128]) ∧
    (part.fw.slices.testBit (0x2FF - 0x200) = false ∧ (part.stack (0x317 - 0x300)).liveCount = 0 ∧
      (d.stack 23).liveCount ≠ 0) := by
  simp only [Dev.direct]
  and_intros <;> decide +kernel

end Sys2Proof.Tests
end

section
/-! PROOF. HBM channels, routers and the thermal trip (R25, R240, R247, R365, R375, R391): the rules of the stacks, of a
counted event and of a report of units, what each of the six events leaves, and the statement. -/
namespace Sys2Proof.Machine

/-! ## Stacks -/

/-- After a change of stack `st`, that stack is the new one and every other is as it was. -/
theorem Dev.stack_setStack (d : Dev) (st : Nat) (x : Stack) (n : Nat) :
    (d.setStack st x).stack n = if n = st then x else d.stack n := by
  split
  next h =>
    rw [h]
    exact cellAt_cellPut_same ..
  next h => exact cellAt_cellPut_other _ _ _ _ _ h

@[simp] theorem Dev.setStack_blk (d : Dev) (st : Nat) (x : Stack) : (d.setStack st x).blk = d.blk := rfl

/-- Channel `ch` is live in the current generation of stack `st` (R240). -/
def Dev.liveChannel (d : Dev) (st ch : Nat) : Prop := st < 24 ∧ ch ∈ (d.stack st).live (d.stack st).gen

/-- The channel is among those that failed in the current generation. -/
def Dev.deadChannel (d : Dev) (st ch : Nat) : Prop := ch ∈ (d.stack st).dead (d.stack st).gen

/-! ## Counters -/

/-- What an event adds to a counter of the device, or does not after a CNTW of the same clock (R378). -/
theorem Dev.counter_bump (d : Dev) (n k : Nat) :
    (d.bump n k).counter n =
      if d.writtenNow Config.cores n then d.counter n else d.counter n + BitVec.ofNat 64 k := by
  unfold Dev.bump
  split
  · rfl
  · exact cellAt_cellPut_same ..

theorem Dev.writtenNow_iff (d : Dev) (core n : Nat) :
    d.writtenNow core n = true ↔ ∃ x ∈ d.written, x.core = core ∧ x.num = n := by
  simp [Dev.writtenNow]

/-- A state that holds the counters of a counted event has counted it. -/
theorem State.counts_of_bump {s t : State} {n k : Nat} (h : t.dev.counter n = (s.dev.bump n k).counter n) :
    s.counts t n k := by
  rw [Dev.counter_bump] at h
  constructor
  · intro hw
    rw [h, if_pos ((Dev.writtenNow_iff ..).mpr hw)]
  · intro hw
    rw [h, if_neg]
    rw [Dev.writtenNow_iff]
    rintro ⟨x, hx, hn⟩
    exact hw x hx hn

/-- A counted event changes nothing but the counters. -/
theorem Dev.bump_eq (d : Dev) (n k : Nat) : d.bump n k = { d with ctrs := (d.bump n k).ctrs } := by
  unfold Dev.bump
  split <;> rfl

@[simp] theorem Dev.bump_blk (d : Dev) (n k : Nat) : (d.bump n k).blk = d.blk := by rw [Dev.bump_eq]
@[simp] theorem Dev.bump_fw (d : Dev) (n k : Nat) : (d.bump n k).fw = d.fw := by rw [Dev.bump_eq]
@[simp] theorem Dev.bump_clock (d : Dev) (n k : Nat) : (d.bump n k).clock = d.clock := by rw [Dev.bump_eq]
@[simp] theorem Dev.bump_stack (d : Dev) (n k : Nat) : (d.bump n k).stack = d.stack := by
  rw [Dev.bump_eq]
  rfl

/-- The counters do not depend on the stacks. -/
theorem Dev.counter_bump_setStack (d : Dev) (st : Nat) (x : Stack) (n k : Nat) :
    ((d.setStack st x).bump n k).counter n = (d.bump n k).counter n := by
  rw [Dev.counter_bump, Dev.counter_bump]
  rfl

/-! ## Memory after a step, and reports -/

theorem Tags.read_writeAll (t : Tags) (j : List (Nat × BitVec 16)) (line : Nat) :
    (t.writeAll j).read line = (journalAt j line).getD (t.read line) :=
  cellAt_cellPutAll _ t j line

/-- A step that writes no byte and no metadata leaves memory as it was. -/
theorem State.sameMemory_settle {w : Work} {s : State} (hj : w.jnl = []) (ht : w.tjnl = []) :
    s.sameMemory (w.settle s) := by
  constructor
  · intro a
    rw [Work.settle_mem, hj, Memory.writeAll_nil]
  · intro l
    rw [Work.settle_tags, ht, Tags.writeAll_nil]

/-- An event that does nothing ends in the state in which it began. -/
@[simp] theorem Work.settle_start (s : State) : (Work.start s).settle s = s := rfl

@[simp] theorem Work.reportUnits_blk (w : Work) : w.reportUnits.dev.blk = w.dev.blk := rfl
@[simp] theorem Work.reportUnits_stack (w : Work) : w.reportUnits.dev.stack = w.dev.stack := rfl
@[simp] theorem Work.reportUnits_counter (w : Work) (n : Nat) :
    w.reportUnits.dev.counter n = w.dev.counter n := rfl

/-- A change of units that ends in `reportUnits`, and keeps what firmware set up and the clock, is reported (R25, R365). -/
theorem Work.settle_reported {w : Work} {s : State} (hj : w.jnl = []) (ht : w.tjnl = []) (hf : w.dev.fw = s.dev.fw)
    (hc : w.dev.clock = s.dev.clock) : s.reported (w.reportUnits.settle s) := by
  refine ⟨State.sameMemory_settle hj ht, ?_⟩
  rw [← hf, ← hc]
  rfl

/-! ## Events that change one stack -/

/-- Event `i` makes `y` of stack `st` and leaves the other stacks and the block that issues; `p` says what else is known. -/
def State.makesStack (s : State) (i : Instr) (st : Nat) (y : Stack) (p : State → Prop) : Prop :=
  s.answers i fun t =>
    t.dev.stack st = y ∧ (∀ n, n ≠ st → t.dev.stack n = s.dev.stack n) ∧ t.dev.blk = s.dev.blk ∧ p t

theorem State.makesStack_of_settle {s : State} {i : Instr} {st : Nat} {y : Stack} {p : State → Prop} {w : Work}
    (he : exec i s = .next (w.settle s)) (hs : ∀ n, w.dev.stack n = if n = st then y else s.dev.stack n)
    (hb : w.dev.blk = s.dev.blk) (hp : p (w.settle s)) : s.makesStack i st y p := by
  refine ⟨_, he, ?_, fun n hn => ?_, hb, hp⟩
  · rw [Work.settle_dev, hs, if_pos rfl]
  · rw [Work.settle_dev, hs, if_neg hn]

/-! ## PSEUDO_CHANNEL_FAILURE (R240) -/

theorem exec_pseudoChannelFailure (s : State) (st ch : Nat) :
    exec (.pseudoChannelFailure st ch) s = .next (((Work.start s).failChannel st ch).settle s) := rfl

/-- The stack of a failing channel with a spare left: the spare is used up, and the channel is being copied to it. -/
def Stack.takeSpare (x : Stack) (ch : Nat) : Stack := { x with spares := x.spares - 1, copying := x.copying ++ [ch] }

/-- The stack of a channel that dies while the other generation is in use. -/
def Stack.loseChannel (x : Stack) (ch : Nat) : Stack := { x with dead0 := x.dead0 ++ [ch], dead1 := x.dead1 ++ [ch] }

/-- The stack of a channel that fails without a spare. -/
def Work.withoutChannel (w : Work) (st ch : Nat) : Stack :=
  let x := w.dev.stack st
  if w.genUsed st (1 - x.gen) then x.loseChannel ch else x.switch [ch]

theorem Work.failChannel_spare {w : Work} {st ch : Nat} (hl : w.dev.liveChannel st ch)
    (hd : ¬ w.dev.deadChannel st ch) (hs : (w.dev.stack st).spares ≠ 0) :
    w.failChannel st ch =
      ({ w with dev := (w.dev.setStack st ((w.dev.stack st).takeSpare ch)).bump (0x320 + st) 1 }).reportUnits := by
  obtain ⟨hst, hch⟩ := hl
  simp [Work.failChannel, Stack.takeSpare, hst, hch, (show ch ∉ _ from hd), hs]

theorem Work.failChannel_noSpare {w : Work} {st ch : Nat} (hl : w.dev.liveChannel st ch)
    (hd : ¬ w.dev.deadChannel st ch) (hs : (w.dev.stack st).spares = 0) :
    w.failChannel st ch = ({ w with dev := w.dev.setStack st (w.withoutChannel st ch) }).reportUnits := by
  obtain ⟨hst, hch⟩ := hl
  simp [Work.failChannel, Work.withoutChannel, Stack.setDead, Stack.loseChannel, hst, hch, (show ch ∉ _ from hd), hs]

theorem Work.failChannel_idle {w : Work} {st ch : Nat} (h : ¬ w.dev.liveChannel st ch ∨ w.dev.deadChannel st ch) :
    w.failChannel st ch = w := by
  unfold Work.failChannel
  refine if_neg fun hc => ?_
  simp only [Bool.and_eq_true, decide_eq_true_eq, List.contains_eq_mem, Bool.not_eq_true', decide_eq_false_iff_not] at hc
  obtain ⟨⟨hst, hch⟩, hd⟩ := hc
  exact h.elim (fun hl => hl ⟨hst, hch⟩) hd

theorem Work.withoutChannel_used {w : Work} {st : Nat} (ch : Nat)
    (h : w.genUsed st (1 - (w.dev.stack st).gen) = true) : w.withoutChannel st ch = (w.dev.stack st).loseChannel ch := by
  simp only [Work.withoutChannel, h, if_true]

theorem Work.withoutChannel_unused {w : Work} {st : Nat} (ch : Nat)
    (h : w.genUsed st (1 - (w.dev.stack st).gen) = false) : w.withoutChannel st ch = (w.dev.stack st).switch [ch] := by
  simp only [Work.withoutChannel, h, Bool.false_eq_true, if_false]

/-- A failure with a spare left takes it, counts it and is reported. -/
theorem pseudoChannelFailure_spare {s : State} {st ch : Nat} (hl : s.dev.liveChannel st ch)
    (hd : ¬ s.dev.deadChannel st ch) (hs : (s.dev.stack st).spares ≠ 0) :
    s.makesStack (.pseudoChannelFailure st ch) st ((s.dev.stack st).takeSpare ch) fun t =>
      s.counts t (0x320 + st) 1 ∧ s.reported t := by
  refine State.makesStack_of_settle
    ((exec_pseudoChannelFailure ..).trans (by rw [Work.failChannel_spare (w := Work.start s) hl hd hs])) ?_ ?_
    ⟨State.counts_of_bump ?_, Work.settle_reported rfl rfl ?_ ?_⟩
  · simp [Dev.stack_setStack]
  · simp
  · simp [Dev.counter_bump_setStack]
  · simp [Dev.setStack]
  · simp [Dev.setStack]

/-- A failure without a spare is reported: the channel dies in both generations while the other is in use, else the device
switches to the other. -/
theorem pseudoChannelFailure_noSpare {s : State} {st ch : Nat} {y : Stack} (hl : s.dev.liveChannel st ch)
    (hd : ¬ s.dev.deadChannel st ch) (hs : (s.dev.stack st).spares = 0)
    (hy : (Work.start s).withoutChannel st ch = y) :
    s.makesStack (.pseudoChannelFailure st ch) st y fun t => s.reported t := by
  subst hy
  exact State.makesStack_of_settle
    ((exec_pseudoChannelFailure ..).trans (by rw [Work.failChannel_noSpare (w := Work.start s) hl hd hs]))
    (Dev.stack_setStack _ _ _) rfl (Work.settle_reported rfl rfl rfl rfl)

/-- A switch from generation 0, no channel of which was dead. -/
theorem Stack.switch_gen0 {x : Stack} (ch : Nat) (hg : x.gen = 0) (hd : x.dead0 = []) :
    x.switch [ch] = { x with gen := 1, live1 := (x.live x.gen).filter (· ∉ ch :: x.dead x.gen),
                             dead0 := [ch], dead1 := [] } := by
  simp [Stack.switch, Stack.setLive, Stack.setDead, Stack.dead, hg, hd, List.eraseDups_cons]

/-- A switch from generation 1, no channel of which was dead. -/
theorem Stack.switch_gen1 {x : Stack} (ch : Nat) (hg : x.gen = 1) (hd : x.dead1 = []) :
    x.switch [ch] = { x with gen := 0, live0 := (x.live x.gen).filter (· ∉ ch :: x.dead x.gen),
                             dead1 := [ch], dead0 := [] } := by
  simp [Stack.switch, Stack.setLive, Stack.setDead, Stack.dead, hg, hd, List.eraseDups_cons]

theorem pseudoChannelFailure_idle {s : State} {st ch : Nat}
    (h : ¬ s.dev.liveChannel st ch ∨ s.dev.deadChannel st ch) : exec (.pseudoChannelFailure st ch) s = .next s := by
  rw [exec_pseudoChannelFailure, Work.failChannel_idle (w := Work.start s) h, Work.settle_start]

/-! ## SPARE_COPY_COMPLETE (R240) -/

theorem exec_spareCopyComplete (s : State) (st ch : Nat) :
    exec (.spareCopyComplete st ch) s = .next (((Work.start s).copyDone st ch).settle s) := rfl

/-- The stack once the channel stands on its spare. -/
def Stack.copied (x : Stack) (ch : Nat) : Stack := { x with copying := x.copying.erase ch }

/-- The working copy once a channel stands on its spare and no error is left in the cells. -/
def Work.copied (w : Work) (st ch : Nat) : Work :=
  let d := w.dev.setStack st ((w.dev.stack st).copied ch)
  { w with dev := { d with unc := { d.unc with upsets := [] } } }

theorem Work.copied_stack (w : Work) (st ch n : Nat) :
    (w.copied st ch).dev.stack n = if n = st then (w.dev.stack st).copied ch else w.dev.stack n :=
  Dev.stack_setStack ..

theorem Work.serveQueued_nil {w : Work} (h : w.dev.link.queued = []) : w.serveQueued = w := if_pos h

theorem Work.copyDone_clean {w : Work} {st ch : Nat} (hc : ch ∈ (w.dev.stack st).copying)
    (hq : w.dev.link.queued = []) (hu : w.dev.unc.upsets = []) : w.copyDone st ch = w.copied st ch := by
  have hc' : (w.dev.stack st).copying.contains ch = true := List.contains_iff_mem.mpr hc
  simp only [Work.copyDone, hc', if_true, hu, List.filter_nil, List.foldl_nil]
  rw [Work.serveQueued_nil (by exact hq)]
  simp [Work.copied, Stack.copied, Dev.setStack, hu]

theorem Work.copyDone_lineError {w : Work} {st ch line : Nat} {u : Upset} (hc : ch ∈ (w.dev.stack st).copying)
    (hq : w.dev.link.queued = []) (hu : w.dev.unc.upsets = [u]) (hl : u.loc = .line line false)
    (hf : u.fatal = true) (hi : w.inUnit 4 st ch u = true) :
    w.copyDone st ch = (w.copied st ch).setPoison line true := by
  have hc' : (w.dev.stack st).copying.contains ch = true := List.contains_iff_mem.mpr hc
  have he : w.dev.unc.upsets.filter (w.inUnit 4 st ch) = [u] := by simp [hu, hi]
  simp only [Work.copyDone, hc', if_true, he, List.foldl_cons, List.foldl_nil, hl, hf]
  rw [Work.serveQueued_nil (by exact hq)]
  simp [Work.copied, Stack.copied, Dev.setStack, hu]

theorem Work.copyDone_idle {w : Work} {st ch : Nat} (hc : ch ∉ (w.dev.stack st).copying) : w.copyDone st ch = w :=
  if_neg fun h => hc (List.contains_iff_mem.mp h)

/-- The only metadata that poisoning a line changes are its own, whose poison bit is set (R244). -/
theorem Work.settle_setPoison_tags {w : Work} {s : State} (ht : w.tags = s.tags) (hj : w.tjnl = []) (line : Nat) :
    let t := (w.setPoison line true).settle s
    (t.tags.read line).getLsbD 15 = true ∧ ∀ n, n ≠ line → t.tags.read n = s.tags.read n := by
  have hr (n : Nat) : ((w.setPoison line true).settle s).tags.read n =
      if line = n then s.tags.read line ||| 0x8000#16 else s.tags.read n := by
    rw [Work.settle_tags, Tags.read_writeAll]
    simp only [Work.setPoison, Work.putMeta, Work.meta, hj, ht, journalAt, Option.getD_none, if_true]
    split <;> rfl
  refine ⟨?_, fun n hn => by rw [hr, if_neg hn.symm]⟩
  rw [hr, if_pos rfl]
  simp

/-- A copy ends with no error in the cells. -/
theorem spareCopyComplete_clean {s : State} {st ch : Nat} (hc : ch ∈ (s.dev.stack st).copying)
    (hq : s.dev.link.queued = []) (hu : s.dev.unc.upsets = []) :
    s.makesStack (.spareCopyComplete st ch) st ((s.dev.stack st).copied ch) s.sameMemory :=
  State.makesStack_of_settle
    ((exec_spareCopyComplete ..).trans (by rw [Work.copyDone_clean (w := Work.start s) hc hq hu]))
    (Work.copied_stack _ _ _) rfl (State.sameMemory_settle rfl rfl)

/-- A copy ends with an error in a line of its channel that cannot be corrected: the error is over, and the line is
poisoned. -/
theorem spareCopyComplete_lineError {s : State} {st ch line : Nat} {u : Upset} (hc : ch ∈ (s.dev.stack st).copying)
    (hq : s.dev.link.queued = []) (hu : s.dev.unc.upsets = [u]) (hl : u.loc = .line line false)
    (hf : u.fatal = true) (hi : (Work.start s).inUnit 4 st ch u = true) :
    s.makesStack (.spareCopyComplete st ch) st ((s.dev.stack st).copied ch) fun t =>
      t.dev.unc.upsets = [] ∧ (t.tags.read line).getLsbD 15 = true ∧
      (∀ n, n ≠ line → t.tags.read n = s.tags.read n) ∧ ∀ a, t.mem.read a = s.mem.read a := by
  obtain ⟨hbit, hother⟩ :=
    Work.settle_setPoison_tags (w := (Work.start s).copied st ch) (s := s) rfl rfl line
  exact State.makesStack_of_settle
    ((exec_spareCopyComplete ..).trans (by rw [Work.copyDone_lineError (w := Work.start s) hc hq hu hl hf hi]))
    (Work.copied_stack _ _ _) rfl ⟨rfl, hbit, hother, fun _ => rfl⟩

theorem spareCopyComplete_idle {s : State} {st ch : Nat} (hc : ch ∉ (s.dev.stack st).copying) :
    exec (.spareCopyComplete st ch) s = .next s := by
  rw [exec_spareCopyComplete, Work.copyDone_idle (w := Work.start s) hc, Work.settle_start]

/-! ## REFRESH and SELF_REFRESH_ENTRY (R247) -/

theorem exec_refresh (s : State) (st ch errors : Nat) :
    exec (.refresh st ch errors) s = .next (((Work.start s).refresh st ch errors).settle s) := rfl

theorem exec_selfRefreshEntry (s : State) (st ch : Nat) (request : Bool) :
    exec (.selfRefreshEntry st ch request) s = .next (((Work.start s).selfRefresh st ch request).settle s) := rfl

/-- No switch is owed in a stack of whose current generation no channel is dead. -/
theorem Work.lateSwitch_idle {w : Work} {st : Nat} (h : (w.dev.stack st).dead (w.dev.stack st).gen = []) :
    w.lateSwitch st = w := by
  simp [Work.lateSwitch, h]

theorem Work.refresh_live {w : Work} {st ch : Nat} (errors : Nat) (hl : w.dev.liveChannel st ch)
    (hd : (w.dev.stack st).dead (w.dev.stack st).gen = []) :
    w.refresh st ch errors =
      if w.dev.scrubField 4 = 0 then w else { w with dev := w.dev.bump (0x300 + st) errors } := by
  obtain ⟨hst, hch⟩ := hl
  simp only [Work.refresh, hst, hch, List.contains_eq_mem, decide_true, Bool.and_self, if_true]
  apply Work.lateSwitch_idle
  split
  · exact hd
  · simpa using hd

theorem Work.refresh_idle {w : Work} {st ch : Nat} (errors : Nat) (h : ¬ w.dev.liveChannel st ch) :
    w.refresh st ch errors = w := by
  unfold Work.refresh
  refine if_neg fun hc => h ?_
  simpa [Dev.liveChannel] using hc

/-- A refresh adds the errors that it read out, where SCRUBCFG scrubs HBM4E, and changes nothing else. -/
theorem refresh_live {s : State} {st ch : Nat} (errors : Nat) (hl : s.dev.liveChannel st ch)
    (hd : (s.dev.stack st).dead (s.dev.stack st).gen = []) :
    s.makesStack (.refresh st ch errors) st (s.dev.stack st) fun t => s.sameMemory t ∧
      (s.dev.scrubField 4 = 0 → t.dev.counter (0x300 + st) = s.dev.counter (0x300 + st)) ∧
      (s.dev.scrubField 4 ≠ 0 → s.counts t (0x300 + st) errors) := by
  have he := (exec_refresh s st ch errors).trans
    (by rw [Work.refresh_live (w := Work.start s) errors hl hd, Work.start_dev])
  have hs (n : Nat) : s.dev.stack n = if n = st then s.dev.stack st else s.dev.stack n := by
    split
    next h => rw [h]
    next => rfl
  by_cases hf : s.dev.scrubField 4 = 0
  · rw [if_pos hf] at he
    exact State.makesStack_of_settle he hs rfl
      ⟨State.sameMemory_settle rfl rfl, fun _ => rfl, fun h => absurd hf h⟩
  · rw [if_neg hf] at he
    exact State.makesStack_of_settle he (by simpa only [Dev.bump_stack] using hs) (Dev.bump_blk ..)
      ⟨State.sameMemory_settle rfl rfl, fun h => absurd h hf, fun _ => State.counts_of_bump rfl⟩

theorem refresh_idle {s : State} {st ch : Nat} (errors : Nat) (h : ¬ s.dev.liveChannel st ch) :
    exec (.refresh st ch errors) s = .next s := by
  rw [exec_refresh, Work.refresh_idle (w := Work.start s) errors h, Work.settle_start]

/-- The stack with the channel out of self-refresh. -/
def Stack.wake (x : Stack) (ch : Nat) : Stack := { x with asleep := x.asleep.filter (· ≠ ch) }

/-- The stack with the channel in self-refresh, too. -/
def Stack.sleep (x : Stack) (ch : Nat) : Stack := { x with asleep := x.asleep ++ [ch] }

theorem Work.selfRefresh_request {w : Work} {st ch : Nat} (hl : w.dev.liveChannel st ch) :
    w.selfRefresh st ch true = { w with dev := w.dev.setStack st ((w.dev.stack st).wake ch) } := by
  obtain ⟨hst, hch⟩ := hl
  simp [Work.selfRefresh, Stack.wake, hst, hch, bne, Bool.beq_eq_decide_eq]

theorem Work.selfRefresh_entry {w : Work} {st ch : Nat} (hl : w.dev.liveChannel st ch)
    (ha : ch ∉ (w.dev.stack st).asleep) :
    w.selfRefresh st ch false = { w with dev := w.dev.setStack st ((w.dev.stack st).sleep ch) } := by
  obtain ⟨hst, hch⟩ := hl
  simp [Work.selfRefresh, Stack.sleep, hst, hch, ha]

/-- A request wakes the channel, or keeps it awake. -/
theorem selfRefreshEntry_request {s : State} {st ch : Nat} (hl : s.dev.liveChannel st ch) :
    s.makesStack (.selfRefreshEntry st ch true) st ((s.dev.stack st).wake ch) s.sameMemory :=
  State.makesStack_of_settle
    ((exec_selfRefreshEntry ..).trans (by rw [Work.selfRefresh_request (w := Work.start s) hl]))
    (Dev.stack_setStack _ _ _) rfl (State.sameMemory_settle rfl rfl)

/-- Without a request the channel enters self-refresh. -/
theorem selfRefreshEntry_entry {s : State} {st ch : Nat} (hl : s.dev.liveChannel st ch)
    (ha : ch ∉ (s.dev.stack st).asleep) :
    s.makesStack (.selfRefreshEntry st ch false) st ((s.dev.stack st).sleep ch) s.sameMemory :=
  State.makesStack_of_settle
    ((exec_selfRefreshEntry ..).trans (by rw [Work.selfRefresh_entry (w := Work.start s) hl ha]))
    (Dev.stack_setStack _ _ _) rfl (State.sameMemory_settle rfl rfl)

/-! ## ROUTER_POWER_DOWN (R247) -/

theorem exec_routerPowerDown (s : State) (r : Nat) (wake : Bool) :
    exec (.routerPowerDown r wake) s = .next (((Work.start s).routerDown r wake).settle s) := rfl

theorem Work.routerDown_routersDown (w : Work) (r : Nat) (wake : Bool) :
    (w.routerDown r wake).dev.unc.routersDown =
      w.dev.unc.routersDown.filter (· ≠ r) ++ if wake then [] else [r] := by
  cases wake <;> simp [Work.routerDown, bne, Bool.beq_eq_decide_eq]

/-- The router joins those without power, or leaves them when it wakes. -/
theorem routerPowerDown_routers (s : State) (r : Nat) (wake : Bool) :
    s.answers (.routerPowerDown r wake) fun t => s.sameMemory t ∧ t.dev.blk = s.dev.blk ∧
      t.dev.unc.routersDown = s.dev.unc.routersDown.filter (· ≠ r) ++ if wake then [] else [r] :=
  ⟨_, exec_routerPowerDown .., State.sameMemory_settle rfl rfl, rfl, Work.routerDown_routersDown ..⟩

/-! ## THERMAL_TRIP (R391) -/

theorem exec_thermalTrip (s : State) : exec .thermalTrip s = .next { s with dev := s.dev.trip } := rfl

theorem Dev.tooHot_iff (d : Dev) : d.tooHot = true ↔ ∃ n, n < Config.cores ∧ 110 ≤ (d.core n).celsius := by
  simp [Dev.tooHot]

/-- Below 110 degrees at every sensor nothing happens. -/
theorem thermalTrip_cool {s : State} (h : ∀ n, n < Config.cores → (s.dev.core n).celsius < 110) :
    exec .thermalTrip s = .next s := by
  have hc : s.dev.tooHot ≠ true := fun hot => by
    obtain ⟨n, hn, h110⟩ := s.dev.tooHot_iff.mp hot
    exact absurd (h n hn) (Nat.not_lt.mpr h110)
  rw [exec_thermalTrip, show s.dev.trip = s.dev from if_neg hc]

/-- At 110 degrees at one sensor the device trips: every context is lost, and what firmware set up, the cores and memory
stand. -/
theorem thermalTrip_hot {s : State} {core : Nat} (hn : core < Config.cores) (h : 110 ≤ (s.dev.core core).celsius) :
    s.answers .thermalTrip fun t => t.dev.svc = { s.dev.svc with stage := .tripped } ∧ t.dev.blk.resident = false ∧
      t.dev.others = [] ∧ t.dev.lu.launches = [] ∧ t.dev.eng.ops = [] ∧ t.dev.fw = s.dev.fw ∧
      t.dev.cores = s.dev.cores ∧ s.sameMemory t := by
  have ht : s.dev.trip = { s.dev.loseContexts with ownQueue := [], svc := { s.dev.svc with stage := .tripped } } :=
    if_pos (s.dev.tooHot_iff.mpr ⟨core, hn, h⟩)
  refine ⟨_, exec_thermalTrip s, ?_⟩
  rw [ht]
  exact ⟨rfl, rfl, rfl, rfl, rfl, rfl, rfl, fun _ => rfl, fun _ => rfl⟩

/-! ## The statement -/

/-- Settles O59: each of its clauses is one case of one of the six events. -/
theorem channelResult : Obligations.ChannelResult := by
  intro s st ch errors core u line
  refine ⟨pseudoChannelFailure_spare, fun hl hd hs => ⟨fun hg => ?_, fun hg h0 hn => ?_, fun hg h1 hn => ?_⟩,
    pseudoChannelFailure_idle, spareCopyComplete_clean, spareCopyComplete_lineError, spareCopyComplete_idle,
    refresh_live errors, refresh_idle errors, fun hl => ⟨selfRefreshEntry_request hl, selfRefreshEntry_entry hl⟩,
    routerPowerDown_routers s ch false, ?_, thermalTrip_cool, thermalTrip_hot⟩
  · exact pseudoChannelFailure_noSpare hl hd hs (Work.withoutChannel_used ch hg)
  · exact pseudoChannelFailure_noSpare hl hd hs ((Work.withoutChannel_unused ch hg).trans (Stack.switch_gen0 ch h0 hn))
  · exact pseudoChannelFailure_noSpare hl hd hs ((Work.withoutChannel_unused ch hg).trans (Stack.switch_gen1 ch h1 hn))
  · simpa using routerPowerDown_routers s ch true

end Sys2Proof.Machine
end
